-- ==== Sys2Proof/Word.lean ====
section
/-! DEFINITION. The word types of the block (spec/00_scope.md R14, R16): bus words, 64-bit positions, coil
nibbles, and slot numbers. -/

namespace Sys2Proof

/-- A 32-bit bus word (R14, R87: every bus transaction moves exactly 32 bits). -/
abbrev Word := BitVec 32

/-- A 12-bit byte address on the host bus (R80). -/
abbrev Addr := BitVec 12

/-- A 64-bit two's-complement step position or target (R51, R52; 90_conflicts.md C6). -/
abbrev Position := BitVec 64

/-- A 4-bit coil pattern (R13, R161). -/
abbrev Nibble := BitVec 4

/-- A slot number as the 4-bit MOTOR field can name it (R111). Whether the slot exists depends on N_MOTORS. -/
abbrev SlotIx := Fin 16

end Sys2Proof
end

