-- ==== Sys2Proof/Syntax.lean ====
section
/-! DEFINITION. The seven commands (spec/30_encoding.md R112), one constructor per row of spec/opcode_table.json.
Operands that a command takes from ARG (R115, R116) are read from the state when it executes, not here. -/

namespace Sys2Proof

/-- A command, with the fields of the CMD word it uses (R111, R115, R118). -/
inductive Instr where
  /-- NOP (OP 0x0, R194). -/
  | nop
  /-- CONFIGURE m, off, dinv, half (OP 0x1, R162). `off` is the zero-extended BIT_OFFSET field, a bit position. -/
  | configure (m : SlotIx) (off : Nat) (dinv half : Bool)
  /-- RELEASE m (OP 0x2, R164). -/
  | release (m : SlotIx)
  /-- ZERO m (OP 0x3, R163). -/
  | zero (m : SlotIx)
  /-- SET_TARGET m (OP 0x4, R166). -/
  | setTarget (m : SlotIx)
  /-- RUN (OP 0x5, R195). It uses no field; `m` is the ignored MOTOR field, kept because ERR_MOTOR records it when
  RUN is refused with BUSY (R195, R262). -/
  | run (m : SlotIx)
  /-- WRNIB m (OP 0x6, R243). -/
  | wrnib (m : SlotIx)
  deriving DecidableEq, Repr

end Sys2Proof
end

