-- ==== Sys2Proof/WellFormed.lean ====
section
/-! DEFINITION. Which command terms a CMD word can express (spec/30_encoding.md R111). -/

namespace Sys2Proof

/-- A command a CMD word can express: the MOTOR field is 4 bits wide by its type, and the bit offset of CONFIGURE
must fit its 8-bit field (R111, R115: "0 to 255 before validation"). -/
def Instr.WellFormed : Instr → Bool
  | .nop => true
  | .configure _ off _ _ => decide (off < 256)
  | .release _ => true
  | .zero _ => true
  | .setTarget _ => true
  | .run _ => true
  | .wrnib _ => true

end Sys2Proof
end

