-- ==== Sys2Proof/Decode.lean ====
section
/-! DEFINITION. The decoder of a CMD word, total and rejecting reserved opcodes by name (spec/30_encoding.md R110 to
R120), and the encoder written from the same tables. -/

namespace Sys2Proof

/-- Why a word is no command: its opcode is reserved (R113). It carries what the error recording needs: the opcode
and the MOTOR field (R262; DEDUCED, safe, notes/assumptions/12.md). -/
inductive DecodeError where
  | reservedOpcode (op : Nibble) (m : SlotIx)
  deriving DecidableEq, Repr

/-! ## The fields of the CMD word (R111) -/

/-- OP, bits 3:0. -/
def opField (w : Word) : Nibble := w.extractLsb' 0 4

/-- MOTOR, bits 11:8, zero-extended. -/
def motorField (w : Word) : SlotIx := (w.extractLsb' 8 4).toFin

/-- BIT_OFFSET, bits 23:16, zero-extended and not scaled. -/
def bitOffsetField (w : Word) : Nat := (w.extractLsb' 16 8).toNat

/-- DIR_INV, bit 24. -/
def dirInvField (w : Word) : Bool := w.getLsbD 24

/-- HALF, bit 25. -/
def halfField (w : Word) : Bool := w.getLsbD 25

/-- The command a CMD word stands for. OP alone selects it (R112, R119); bits 7:4, 15:12 and 31:26 and the fields a
command does not use are ignored (R114). -/
def decode (w : Word) : Except DecodeError Instr :=
  match (opField w).toNat with
  | 0 => .ok .nop
  | 1 => .ok (.configure (motorField w) (bitOffsetField w) (dirInvField w) (halfField w))
  | 2 => .ok (.release (motorField w))
  | 3 => .ok (.zero (motorField w))
  | 4 => .ok (.setTarget (motorField w))
  | 5 => .ok (.run (motorField w))
  | 6 => .ok (.wrnib (motorField w))
  | _ => .error (.reservedOpcode (opField w) (motorField w))

/-! ## The encoder -/

/-- The contribution of a field with value v whose lowest bit is bit lo of a register or command word. A word is the sum
of its fields, which do not overlap; a reserved field contributes nothing. -/
def atBit (lo v : Nat) : Nat := v * 2 ^ lo

/-- A CMD word from its fields (R111), reserved bits 0 (R114: "Software writes ignored bits as 0"). -/
def cmdWord (op : Nat) (m : SlotIx) (off : Nat) (dinv half : Bool) : Word :=
  BitVec.ofNat 32 (atBit 0 op + atBit 8 m.val + atBit 16 off + atBit 24 dinv.toNat + atBit 25 half.toNat)

/-- The word of a command (R111, R112), every field it does not use written as 0. -/
def encode : Instr → Word
  | .nop => cmdWord 0x0 0 0 false false
  | .configure m off dinv half => cmdWord 0x1 m off dinv half
  | .release m => cmdWord 0x2 m 0 false false
  | .zero m => cmdWord 0x3 m 0 false false
  | .setTarget m => cmdWord 0x4 m 0 false false
  | .run m => cmdWord 0x5 m 0 false false
  | .wrnib m => cmdWord 0x6 m 0 false false

/-- The host's reading of a table row: the command decoded from an instruction whose low `nbits` bits are `w`, the
other bits 0. Every command is one 32-bit bus word (R110), so the bits need no laying out in memory. -/
def decodeTableWord (nbits w : Nat) : Option Instr :=
  match decode (BitVec.ofNat 32 (w % 2 ^ nbits)) with
  | .ok i => some i
  | .error _ => none

end Sys2Proof
end

