-- ==== Sys2Proof/Machine/AngleMath.lean ====
section
/-! DEFINITION. The shortest-path angle comparator over exact rationals (spec/40_anglemath.md R140 to R146) and the two
rounding functions of the block (spec/00_scope.md R17). -/

namespace Sys2Proof.Machine

/-- `x mod m`, the true modulo `x - m * floor(x / m)` (R17). -/
def ratMod (x m : ℚ) : ℚ := x - m * (⌊x / m⌋ : ℤ)

/-- `round_haz(x)`, round half away from zero: `sign(x) * floor(|x| + 1/2)` (R17). -/
def roundHaz (x : ℚ) : ℤ := if x < 0 then -⌊-x + 1 / 2⌋ else ⌊x + 1 / 2⌋

/-- `normalize(x)`, in [0, 360) (R141). -/
def normalizeAngle (x : ℚ) : ℚ := ratMod x 360

/-- `shortest_delta(from, to)`, in (-180, 180], with the tie sent to +180 (R142, R143; 90_conflicts.md C1). -/
def shortestDelta (frm dest : ℚ) : ℚ :=
  let raw := ratMod (dest - frm + 180) 360 - 180
  if raw = -180 then 180 else raw

/-- `degrees_to_steps(deg, spr)` (R144). -/
def degreesToSteps (deg : ℚ) (spr : Nat) : ℤ := roundHaz (deg * spr / 360)

/-- `steps_to_degrees(c, spr)` (R145). -/
def stepsToDegrees (c : ℤ) (spr : Nat) : ℚ := c * 360 / spr

/-- `cmp_delta(p, spr, t)`, the signed step delta of a SET_TARGET from position p to angle t (R140, R166). -/
def cmpDelta (p : ℤ) (spr : Nat) (t : ℚ) : ℤ :=
  degreesToSteps (shortestDelta (stepsToDegrees (p % (spr : ℤ)) spr) (normalizeAngle t)) spr

end Sys2Proof.Machine
end

