-- ==== Sys2Proof/Config.lean ====
section
/-! DEFINITION. The implementation parameters (spec/00_scope.md R11 to R13; 93_implementation_defined.md I7, I8)
and the one free value of the model (93_implementation_defined.md I1, I2). SHIFT_ORDER (R15) belongs to the latch
device and no rule reads it, so it is not here. -/

namespace Sys2Proof

/-- The parameters of one instance of the block. No command and no reset changes them (R30); a State carries the
parameters of its machine as data, so that a statement about every state is a statement about every instance
(notes/assumptions/1.md). -/
structure Config where
  /-- N_MOTORS, the number of motor slots (R11). -/
  nMotors : Nat
  /-- OUT_WIDTH, the width of the shared output word (R12). -/
  outWidth : Nat
  /-- SEQ4, the full-step coil table (R13). -/
  seq4 : Vector Nibble 4
  /-- SEQ8, the half-step coil table (R13). -/
  seq8 : Vector Nibble 8
  deriving DecidableEq, Repr

/-- The defaults of R11 to R13. The tables are the spec's own choice from general knowledge
(93_implementation_defined.md G1). -/
def Config.default : Config where
  nMotors := 2
  outWidth := 8
  seq4 := #v[0x3#4, 0x6#4, 0xC#4, 0x9#4]
  seq8 := #v[0x1#4, 0x3#4, 0x2#4, 0x6#4, 0x4#4, 0xC#4, 0x8#4, 0x9#4]

/-- The values the spec admits for the parameters: N_MOTORS in 2..16 (R11), OUT_WIDTH one of the seven widths of R12;
every table is legal (R13, D15). -/
abbrev Config.WF (c : Config) : Prop :=
  2 ≤ c.nMotors ∧ c.nMotors ≤ 16 ∧ c.outWidth ∈ [8, 12, 16, 20, 24, 28, 32]

/-- FREE VALUE. What the latch device's outputs show in the n-th cycle in which the block does not know it: after
power-up, after `rst`, after a failed emit, and while an emit is in flight (R249, R292; I1, I2, I4). It has no body,
so nothing can be proved of it (notes/assumptions/5.md). -/
opaque Config.freeLatchWord : Nat → Word

end Sys2Proof
end

