-- ==== Sys2Proof/Machine/State.lean ====
section
/-! DEFINITION. The state of the block as plain data (spec/10_state.md R30 to R60), the surroundings of the block as
queues the step reads (spec/00_scope.md R25), and the state after reset (R60, R291). -/

namespace Sys2Proof.Machine

/-- The two run disciplines: CTRL.MODE and RUN_MODE, 0 = A and 1 = B (R34, R57). -/
inductive Discipline where
  | a
  | b
  deriving DecidableEq, Repr

/-- The scheduler FSM states (R56). Code 7 is never entered (I15), so it is no constructor
(notes/assumptions/17.md). -/
inductive Fsm where
  | idle
  | eval
  | emit
  | sleep
  | final
  | patch
  | runb
  deriving DecidableEq, Repr

/-- The Discipline B worker states (R59). -/
inductive WState where
  | idle
  | req
  | emit
  | sleep
  deriving DecidableEq, Repr

/-- The error codes (R261). Codes 12 to 15 are never written (I15), so they are no constructors. -/
inductive ErrCode where
  | none
  | badOpcode
  | badMotor
  | busy
  | notRegistered
  | sprZero
  | delayZero
  | badOffset
  | overlap
  | notFinite
  | posRange
  | ioFail
  deriving DecidableEq, Repr

/-- One motor slot: the stored fields of its registers (R47 to R49, R51, R52, R54), its worker (R59), and its two bits
of the ADV register (R45). PHASE, PATTERN, PENDING, TOWARD and MPOS are not stored (R50, R53, R55). -/
structure Slot where
  /-- MCFG.REG: the slot is a registered motor. -/
  reg : Bool
  /-- MCFG.DIR_INV. -/
  dirInv : Bool
  /-- MCFG.HALF: half-step, sequence length 8. -/
  half : Bool
  /-- MCFG.BIT_OFFSET. -/
  bitOffset : BitVec 8
  /-- SPR, steps per revolution. -/
  spr : Word
  /-- DELAY, the step delay in cycles. -/
  delay : Word
  /-- POS, the step position. -/
  pos : Position
  /-- TGT, the target step. -/
  tgt : Position
  /-- W[m], the worker state. -/
  w : WState
  /-- WCNT[m], the worker's sleep counter. -/
  wcnt : Word
  /-- ADV[m]: the slot is in the ADV set of the current Discipline A tick. -/
  adv : Bool
  /-- ADV_DIR[m]: the direction of the slot's uncommitted step, true for +1. -/
  advDir : Bool
  deriving DecidableEq, Repr

/-- A slot after reset (R60): every field 0. -/
def Slot.reset : Slot where
  reg := false
  dirInv := false
  half := false
  bitOffset := 0
  spr := 0
  delay := 0
  pos := 0
  tgt := 0
  w := .idle
  wcnt := 0
  adv := false
  advDir := false

/-- What the host presents on the bus in one cycle (R80): nothing, a read, or a write of a 32-bit value. -/
inductive BusCycle where
  | idle
  | read (addr : Addr)
  | write (addr : Addr) (data : Word)
  deriving DecidableEq, Repr

/-- The inputs sampled at one edge besides the bus: `rst`, `emit_ack` and `emit_err` (R25, R245, R290). -/
structure Pins where
  rst : Bool
  ack : Bool
  err : Bool
  deriving DecidableEq, Repr

/-- No reset and no answer of the latch. -/
def Pins.quiet : Pins := ⟨false, false, false⟩

/-- The whole state. The first groups are the block's (R30 to R59); `cfg` is the instance's parameters, which nothing
changes; the last group is the MODEL's own: the inputs still to come and what is known of the latch device
(notes/assumptions/1.md to 5.md). -/
structure State where
  /-- The parameters of this instance (R11 to R13, R33). -/
  cfg : Config
  /-- CTRL.MODE (R34). -/
  mode : Discipline
  /-- CTRL.IE_DONE (R34). -/
  ieDone : Bool
  /-- CTRL.IE_ERR (R34). -/
  ieErr : Bool
  /-- STATUS.DONE (R36). -/
  done : Bool
  /-- STATUS.CFG_ERR (R36). -/
  cfgErr : Bool
  /-- STATUS.IO_ERR (R36). -/
  ioErr : Bool
  /-- STATUS.RUN_MODE (R57). -/
  runMode : Discipline
  /-- STATUS.FSM (R56). -/
  fsm : Fsm
  /-- STATUS.ERR_CODE (R261). -/
  errCode : ErrCode
  /-- STATUS.ERR_MOTOR (R262). -/
  errMotor : SlotIx
  /-- OUT, the last acknowledged word (R38; notes/assumptions/6.md). -/
  out : Word
  /-- EMIT_DATA, the word on the emit port (R42). -/
  emitData : Word
  /-- ARG_LO (R41). -/
  argLo : Word
  /-- ARG_HI (R41). -/
  argHi : Word
  /-- SLEEP_CNT, read as TIMER (R43). -/
  sleepCnt : Word
  /-- SLEEP_LEN (R44). -/
  sleepLen : Word
  /-- RR, the round-robin pointer (R46, R216). -/
  rr : SlotIx
  /-- EMOT, the slot that owns the emit in flight (R57). -/
  emot : SlotIx
  /-- SNAP, the high-word snapshot (R58). -/
  snap : Word
  /-- The motor slots; slot m exists when m < N_MOTORS (R32; notes/assumptions/7.md). -/
  slots : Vector Slot 16
  /-- MODEL: the pins at the coming edges, the next edge first; past the end, `Pins.quiet`. -/
  pins : List Pins
  /-- MODEL: the bus cycles the host still has to present, in order; past the end, no request. -/
  host : List BusCycle
  /-- MODEL: the latch device shows the last acknowledged word. -/
  latchKnown : Bool
  /-- MODEL: the number of edges so far, which indexes the free value `Config.freeLatchWord`. -/
  edge : Nat
  deriving DecidableEq, Repr

/-- The state with every field of the block at its reset value (R60, R291), for given parameters and surroundings.
Nothing is known of the latch device (R292). -/
def State.resetWith (cfg : Config) (pins : List Pins) (host : List BusCycle) (edge : Nat) : State where
  cfg := cfg
  mode := .a
  ieDone := false
  ieErr := false
  done := false
  cfgErr := false
  ioErr := false
  runMode := .a
  fsm := .idle
  errCode := .none
  errMotor := 0
  out := 0
  emitData := 0
  argLo := 0
  argHi := 0
  sleepCnt := 0
  sleepLen := 0
  rr := 0
  emot := 0
  snap := 0
  slots := Vector.replicate 16 Slot.reset
  pins := pins
  host := host
  latchKnown := false
  edge := edge

/-- The machine right after reset (R60, R291) with the default parameters, no further request of the host and no
answer of the latch device. -/
def State.reset : State := State.resetWith Config.default [] [] 0

/-- Why the machine stops with a fault: never. The block has no trap and no fault (R260, R270); an error is recorded
in STATUS and the machine goes on (DEDUCED, safe, notes/assumptions/16.md). Nobody raises a constructor of this type, which has none. -/
inductive Fault where
  deriving DecidableEq, Repr

/-- Why a command has no meaning. -/
inductive Refusal where
  /-- The command with this mnemonic has no meaning in the model yet. Raised only by an arm of `exec` (safe); no arm
  raises it at present. -/
  | notModelled (mnemonic : String)
  deriving DecidableEq, Repr

end Sys2Proof.Machine
end

