-- ==== Sys2Proof/Machine/Ops.lean ====
section
/-! DEFINITION. The named operations every meaning and every engine step is written over: the slots (R32), the
recording of an error and the host's return from it (R263, R271), and the start, acknowledge and failure of an emit
(R246, R248, R249). -/

namespace Sys2Proof.Machine

/-! ## Slots (R32, R40) -/

/-- The sixteen slot numbers in registration order, ascending (R40). -/
def allSlots : List SlotIx := [0, 1, 2, 3, 4, 5, 6, 7, 8, 9, 10, 11, 12, 13, 14, 15]

/-- Slot m exists: m < N_MOTORS (R11, R32). -/
def State.isSlot (s : State) (m : SlotIx) : Bool := decide (m.val < s.cfg.nMotors)

/-- M[m], the registers of slot m (R18). -/
def State.slot (s : State) (m : SlotIx) : Slot := s.slots[m]

/-- Slot m is a registered motor (R24, R40). -/
def State.registered (s : State) (m : SlotIx) : Bool := s.isSlot m && (s.slot m).reg

/-- The state with other slots. -/
def State.withSlots (s : State) (v : Vector Slot 16) : State := { s with slots := v }

/-- Write all of slot m. -/
def State.setSlot (s : State) (m : SlotIx) (x : Slot) : State := s.withSlots (s.slots.set m x)

/-- Rewrite every existing slot at one edge, each from its own value before the edge. -/
def State.mapSlots (s : State) (f : SlotIx → Slot → Slot) : State :=
  s.withSlots (Vector.ofFn fun m => if s.isSlot m then f m s.slots[m] else s.slots[m])

/-- `W[m] <- W_IDLE; WCNT[m] <- 0` for every m (R195, R219). -/
def restWorkers (s : State) : State := s.mapSlots fun _ x => { x with w := .idle, wcnt := 0 }

/-! ## Errors (R263) and the return from one (R37, R271) -/

/-- ERR_CODE and ERR_MOTOR take the first error since both flags were 0 (R263). -/
def recordFirstError (code : ErrCode) (m : SlotIx) (s : State) : State :=
  { s with
    errCode := bif s.cfgErr || s.ioErr then s.errCode else code
    errMotor := bif s.cfgErr || s.ioErr then s.errMotor else m }

/-- `raise ConfigurationError(code, m)` (R263): the block's synchronous exception. It changes the error fields only
(R264). -/
def raiseConfigurationError (code : ErrCode) (m : SlotIx) (s : State) : State :=
  { recordFirstError code m s with cfgErr := true }

/-- `raise HardwareIOError(m)`, code IO_FAIL (R263, R266). What the latch device shows is unknown from here on
(R249). R270 would have every other field as it was before the emit was started; EMIT_DATA, EMOT, SLEEP_LEN and RR stay
as the start of the emit set them, by R42, R46, R202 and R219, and R30 gives the block no state that could hold their
earlier values (DEDUCED, unsafe, notes/assumptions/21.md). -/
def raiseHardwareIOError (m : SlotIx) (s : State) : State :=
  { recordFirstError .ioFail m s with ioErr := true, latchKnown := false }

/-- A write v to STATUS: W1C of DONE, CFG_ERR and IO_ERR (R37), the host's return from an error (R271). ERR_CODE and
ERR_MOTOR stay. -/
def writeStatus (v : Word) (s : State) : State :=
  { s with
    done := s.done && !v.getLsbD 2
    cfgErr := s.cfgErr && !v.getLsbD 3
    ioErr := s.ioErr && !v.getLsbD 4 }

/-! ## Emits (R246 to R249) -/

/-- Start an emit of word v owned by slot m (R57, R246). The caller enters the emitting state. -/
def startEmit (v : Word) (m : SlotIx) (s : State) : State := { s with emitData := v, emot := m }

/-- The acknowledge of the emit in flight: `OUT <- EMIT_DATA` (R248). The latch device now shows OUT. -/
def ackEmit (s : State) : State := { s with out := s.emitData, latchKnown := true }

end Sys2Proof.Machine
end

