-- ==== Sys2Proof/Machine/Flags.lean ====
section
/-! DEFINITION. The derived status `busy()` and `emitting()` (spec/10_state.md R61), the codes the status fields read
as (R34, R56, R59, R261), the STATUS and CTRL words (R34, R36), and `irq` (spec/60_exceptions.md R268). -/

namespace Sys2Proof.Machine

/-- `busy()`: a run is active (R61). -/
def State.busy (s : State) : Bool :=
  match s.fsm with
  | .eval | .emit | .sleep | .final | .runb => true
  | .idle | .patch => false

/-- Some existing slot's worker is in W_EMIT. -/
def State.anyWorkerEmitting (s : State) : Bool :=
  allSlots.any fun m => s.isSlot m && decide ((s.slot m).w = .emit)

/-- `emitting()`: an emit is in flight (R61). -/
def State.emitting (s : State) : Bool :=
  match s.fsm with
  | .emit | .final | .patch => true
  | .runb => s.anyWorkerEmitting
  | .idle | .eval | .sleep => false

/-- The bit a discipline reads as (R34, R57). -/
def Discipline.bit : Discipline → Bool
  | .a => false
  | .b => true

/-- The discipline a MODE bit selects (R34). -/
def Discipline.ofBit (b : Bool) : Discipline := if b then .b else .a

/-- The FSM codes (R56). -/
def Fsm.code : Fsm → Nat
  | .idle => 0
  | .eval => 1
  | .emit => 2
  | .sleep => 3
  | .final => 4
  | .patch => 5
  | .runb => 6

/-- The worker codes (R59). -/
def WState.code : WState → Nat
  | .idle => 0
  | .req => 1
  | .emit => 2
  | .sleep => 3

/-- The error codes (R261). -/
def ErrCode.code : ErrCode → Nat
  | .none => 0
  | .badOpcode => 1
  | .badMotor => 2
  | .busy => 3
  | .notRegistered => 4
  | .sprZero => 5
  | .delayZero => 6
  | .badOffset => 7
  | .overlap => 8
  | .notFinite => 9
  | .posRange => 10
  | .ioFail => 11

/-- The CTRL register (R34). -/
def ctrlWord (s : State) : Word :=
  BitVec.ofNat 32 (atBit 0 s.mode.bit.toNat + atBit 8 s.ieDone.toNat + atBit 9 s.ieErr.toNat)

/-- The STATUS register (R36). -/
def statusWord (s : State) : Word :=
  BitVec.ofNat 32 (atBit 0 s.busy.toNat + atBit 1 s.emitting.toNat + atBit 2 s.done.toNat + atBit 3 s.cfgErr.toNat +
    atBit 4 s.ioErr.toNat + atBit 5 s.runMode.bit.toNat + atBit 8 s.fsm.code + atBit 12 s.errCode.code +
    atBit 16 s.errMotor.val)

/-- A write v to CTRL (R35): the enables always, MODE only while no run is active. -/
def writeCtrl (v : Word) (s : State) : State :=
  { s with
    ieDone := v.getLsbD 8
    ieErr := v.getLsbD 9
    mode := if s.busy then s.mode else Discipline.ofBit (v.getLsbD 0) }

/-- The interrupt output (R268). -/
def State.irq (s : State) : Bool := (s.done && s.ieDone) || ((s.cfgErr || s.ioErr) && s.ieErr)

end Sys2Proof.Machine
end

