-- ==== Sys2Proof/Machine/Operands.lean ====
section
/-! DEFINITION. The operands a command takes from ARG (spec/30_encoding.md R115 to R117) and the two halves of a 64-bit
value (spec/20_memory.md R85, R86). -/

namespace Sys2Proof.Machine

/-- Bits 31:0 of a 64-bit value, the half at the lower address (R86). -/
def loWord (v : BitVec 64) : Word := v.extractLsb' 0 32

/-- Bits 63:32 of a 64-bit value (R86). -/
def hiWord (v : BitVec 64) : Word := v.extractLsb' 32 32

/-- ARG = {ARG_HI, ARG_LO} (R41). -/
def State.arg (s : State) : BitVec 64 := s.argHi ++ s.argLo

/-- CONFIGURE's operand `spr`, steps per revolution, as a u32 (R115). -/
def State.sprOperand (s : State) : Word := s.argLo

/-- CONFIGURE's operand `delay`, in cycles, as a u32 (R115). -/
def State.delayOperand (s : State) : Word := s.argHi

/-! ## The binary64 angle operand (R116, R117) -/

/-- The sign bit s = a[63]. -/
def f64Sign (a : BitVec 64) : Bool := a.getLsbD 63

/-- The biased exponent e = a[62:52]. -/
def f64Exponent (a : BitVec 64) : Nat := (a.extractLsb' 52 11).toNat

/-- The fraction f = a[51:0]. -/
def f64Fraction (a : BitVec 64) : Nat := (a.extractLsb' 0 52).toNat

/-- The operand is a number: e ≠ 0x7FF, neither an infinity nor a NaN (R117). -/
def f64IsFinite (a : BitVec 64) : Bool := f64Exponent a != 0x7FF

/-- The magnitude of a finite operand (R117): a subnormal or zero is f / 2^1074, a normal number is
(2^52 + f) * 2^(e - 1075), the power written on the side of the fraction bar where it is an integer. -/
def f64Magnitude (a : BitVec 64) : ℚ :=
  let e := f64Exponent a
  let f := f64Fraction a
  if e = 0 then (f : ℚ) / ((2 ^ 1074 : Nat) : ℚ)
  else if 1075 ≤ e then (((2 ^ 52 + f) * 2 ^ (e - 1075) : Nat) : ℚ)
  else ((2 ^ 52 + f : Nat) : ℚ) / ((2 ^ (1075 - e) : Nat) : ℚ)

/-- val(a), the exact rational value of a finite operand (R117). -/
def f64Value (a : BitVec 64) : ℚ := if f64Sign a then -f64Magnitude a else f64Magnitude a

end Sys2Proof.Machine
end

