-- ==== Sys2Proof/Machine/Sequencer.lean ====
section
/-! DEFINITION. The per-motor functions: the phase sequencer (spec/41_motor.md R161), the pending test and the step
(R169, R170; spec/00_scope.md R20). -/

namespace Sys2Proof.Machine

/-- L(m), the sequence length of a slot (R20). -/
def Slot.seqLen (x : Slot) : Nat := if x.half then 8 else 4

/-- The phase index of a position, `p mod L`, a true modulo in [0, L) (R55, R161). -/
def Slot.phase (x : Slot) (p : ℤ) : Nat := (p % (x.seqLen : ℤ)).toNat

/-- The table index of a phase: read backwards when DIR_INV = 1 (R161, D17). -/
def Slot.seqIndex (x : Slot) (p : ℤ) : Nat :=
  if x.dirInv then (x.seqLen - x.phase p) % x.seqLen else x.phase p

/-- The coil pattern of a slot at position p (R161). -/
def Slot.pattern (cfg : Config) (x : Slot) (p : ℤ) : Nibble :=
  if x.half then cfg.seq8.toList.getD (x.seqIndex p) 0 else cfg.seq4.toList.getD (x.seqIndex p) 0

/-- `pattern(m, p)` (R161). -/
def State.pattern (s : State) (m : SlotIx) (p : ℤ) : Nibble := (s.slot m).pattern s.cfg p

/-- POS of slot m as a signed number. -/
def State.posOf (s : State) (m : SlotIx) : ℤ := (s.slot m).pos.toInt

/-- TGT of slot m as a signed number. -/
def State.tgtOf (s : State) (m : SlotIx) : ℤ := (s.slot m).tgt.toInt

/-- `pending(m)`: a registered slot with POS ≠ TGT (R20, R169). -/
def State.pending (s : State) (m : SlotIx) : Bool := s.registered m && decide ((s.slot m).pos ≠ (s.slot m).tgt)

/-- Some slot is pending (R198 step 1). -/
def State.anyPending (s : State) : Bool := allSlots.any s.pending

/-- `TGT > POS`, the step direction bit of slot m (R50 TOWARD, R169, R200). -/
def State.toward (s : State) (m : SlotIx) : Bool := decide (s.posOf m < s.tgtOf m)

/-- The position of slot m after its next step, `POS + dir(m)` (R169). -/
def State.steppedPos (s : State) (m : SlotIx) : ℤ := if s.toward m then s.posOf m + 1 else s.posOf m - 1

/-- The commit of a slot's issued step: `POS <- POS + (ADV_DIR ? +1 : -1)` (R170, R201, R213). -/
def Slot.commitStep (x : Slot) : Slot := { x with pos := if x.advDir then x.pos + 1 else x.pos - 1 }

end Sys2Proof.Machine
end

