-- ==== Sys2Proof/Machine/Motor.lean ====
section
/-! DEFINITION. The motor commands CONFIGURE, RELEASE, ZERO and SET_TARGET (spec/41_motor.md R162 to R166). Every
refusal is a ConfigurationError, raised by the first failing check (R265). -/

namespace Sys2Proof.Machine

/-- Another registered slot already owns the offset (R165 OVERLAP). -/
def State.offsetTaken (s : State) (m : SlotIx) (off : Nat) : Bool :=
  allSlots.any fun j => decide (j ≠ m) && s.registered j && decide ((s.slot j).bitOffset.toNat = off)

/-- `check_configure(m, off, spr, delay)`: the first failing check, if any (R165). -/
def State.checkConfigure (s : State) (m : SlotIx) (off : Nat) (spr delay : Word) : Option ErrCode :=
  if !s.isSlot m then some .badMotor
  else if s.busy then some .busy
  else if spr = 0 then some .sprZero
  else if delay = 0 then some .delayZero
  else if off % 4 ≠ 0 ∨ s.cfg.outWidth < off + 4 then some .badOffset
  else if s.offsetTaken m off then some .overlap
  else none

/-- CONFIGURE m, off, dinv, half (R162): construct a motor in slot m, at position 0. -/
def execConfigure (m : SlotIx) (off : Nat) (dinv half : Bool) (s : State) : Host.Outcome State Fault Refusal :=
  match s.checkConfigure m off s.sprOperand s.delayOperand with
  | some code => .next (raiseConfigurationError code m s)
  | none =>
    .next (s.setSlot m
      { s.slot m with
        bitOffset := BitVec.ofNat 8 off
        dirInv := dinv
        half := half
        spr := s.sprOperand
        delay := s.delayOperand
        pos := 0
        tgt := 0
        reg := true })

/-- RELEASE m (R164): remove slot m from the registered motors and change nothing else. -/
def execRelease (m : SlotIx) (s : State) : Host.Outcome State Fault Refusal :=
  if !s.isSlot m then .next (raiseConfigurationError .badMotor m s)
  else if s.busy then .next (raiseConfigurationError .busy m s)
  else if !(s.slot m).reg then .next (raiseConfigurationError .notRegistered m s)
  else .next (s.setSlot m { s.slot m with reg := false })

/-- ZERO m (R163): POS = TGT = 0, with no emit; allowed during a run. -/
def execZero (m : SlotIx) (s : State) : Host.Outcome State Fault Refusal :=
  if !s.isSlot m then .next (raiseConfigurationError .badMotor m s)
  else if !(s.slot m).reg then .next (raiseConfigurationError .notRegistered m s)
  else .next (s.setSlot m { s.slot m with pos := 0, tgt := 0 })

/-- The exact new target of SET_TARGET, `POS + ds`, before the range check (R166). -/
def State.newTarget (s : State) (m : SlotIx) : ℤ :=
  s.posOf m + cmpDelta (s.posOf m) (s.slot m).spr.toNat (f64Value s.arg)

/-- The new target does not fit the 64-bit position range (R166 POS_RANGE, D31). -/
def outOfPosRange (nt : ℤ) : Bool := decide (nt < -2 ^ 63 ∨ 2 ^ 63 - 1 < nt)

/-- SET_TARGET m (R166): the shortest-path target of the angle in ARG; the motor does not move. -/
def execSetTarget (m : SlotIx) (s : State) : Host.Outcome State Fault Refusal :=
  if !s.isSlot m then .next (raiseConfigurationError .badMotor m s)
  else if !(s.slot m).reg then .next (raiseConfigurationError .notRegistered m s)
  else if !f64IsFinite s.arg then .next (raiseConfigurationError .notFinite m s)
  else if outOfPosRange (s.newTarget m) then .next (raiseConfigurationError .posRange m s)
  else .next (s.setSlot m { s.slot m with tgt := BitVec.ofInt 64 (s.newTarget m) })

end Sys2Proof.Machine
end

