-- ==== Sys2Proof/Machine/Output.lean ====
section
/-! DEFINITION. The nibble-granular output multiplexer (spec/43_output.md R240 to R242) and the command WRNIB (R243). -/

namespace Sys2Proof.Machine

/-- The OUT_WIDTH low bits set: every word of the multiplexer is at OUT_WIDTH bits (R20, R161, R242). -/
def outMask (cfg : Config) : Word := BitVec.ofNat 32 (2 ^ cfg.outWidth - 1)

/-- `mask(m)`, the nibble of slot m (R20, R240). -/
def State.nibbleMask (s : State) (m : SlotIx) : Word :=
  (0xF#32 <<< (s.slot m).bitOffset.toNat) &&& outMask s.cfg

/-- `shifted(m, p)`, the coil pattern of slot m at position p in its nibble (R161). -/
def State.shifted (s : State) (m : SlotIx) (p : ℤ) : Word :=
  ((s.pattern m p).setWidth 32 <<< (s.slot m).bitOffset.toNat) &&& outMask s.cfg

/-- `compose(P)`: the OR of every registered motor's shifted pattern; bits no motor owns are 0 (R241). -/
def State.compose (s : State) (P : SlotIx → ℤ) : Word :=
  allSlots.foldl (fun acc m => if s.registered m then acc ||| s.shifted m (P m) else acc) 0

/-- `patch(g, p)`: OUT with only slot g's nibble replaced (R242). -/
def State.patch (s : State) (g : SlotIx) (p : ℤ) : Word :=
  ((s.out &&& ~~~(s.nibbleMask g)) ||| s.shifted g p) &&& outMask s.cfg

/-- The holding word: every motor at its position (R198, R199). -/
def State.holdingWord (s : State) : Word := s.compose s.posOf

/-- WRNIB m (R243): emit OUT with slot m's nibble replaced by its current pattern. -/
def execWrnib (m : SlotIx) (s : State) : Host.Outcome State Fault Refusal :=
  if !s.isSlot m then .next (raiseConfigurationError .badMotor m s)
  else if s.busy then .next (raiseConfigurationError .busy m s)
  else if !(s.slot m).reg then .next (raiseConfigurationError .notRegistered m s)
  else .next { startEmit (s.patch m (s.posOf m)) m s with fsm := .patch }

end Sys2Proof.Machine
end

