-- ==== Sys2Proof/Machine/Scheduler.lean ====
section
/-! DEFINITION. The scheduler commands NOP and RUN (spec/42_scheduler.md R194 to R196) and what a reserved opcode does
(spec/30_encoding.md R113). -/

namespace Sys2Proof.Machine

/-- NOP (R194): no effect. -/
def execNop (s : State) : Host.Outcome State Fault Refusal := .next s

/-- RUN (R195): start the run of the discipline CTRL.MODE selects. It has no effect at all while an error flag is set
(R196). -/
def execRun (m : SlotIx) (s : State) : Host.Outcome State Fault Refusal :=
  if s.cfgErr || s.ioErr then .next s
  else if s.busy then .next (raiseConfigurationError .busy m s)
  else
    match s.mode with
    | .a => .next { s with runMode := .a, done := false, fsm := .eval }
    | .b => .next (restWorkers { s with runMode := .b, done := false, fsm := .runb, rr := 0 })

/-- A reserved opcode (R113): ConfigurationError BAD_OPCODE with the MOTOR field, and no other effect. -/
def execReserved (m : SlotIx) (s : State) : State := raiseConfigurationError .badOpcode m s

end Sys2Proof.Machine
end

