-- ==== Sys2Proof/Machine/Dispatch.lean ====
section
/-! DEFINITION. The meaning of each command: what it makes of the state at the edge its CMD write is accepted
(spec/42_scheduler.md R192). -/

namespace Sys2Proof.Machine

def exec (i : Instr) (s : State) : Host.Outcome State Fault Refusal :=
  match i with
  | .nop => Sys2Proof.Machine.execNop s
  | .configure m off dinv half => Sys2Proof.Machine.execConfigure m off dinv half s
  | .release m => Sys2Proof.Machine.execRelease m s
  | .zero m => Sys2Proof.Machine.execZero m s
  | .setTarget m => Sys2Proof.Machine.execSetTarget m s
  | .run m => Sys2Proof.Machine.execRun m s
  | .wrnib m => Sys2Proof.Machine.execWrnib m s

end Sys2Proof.Machine
end

