-- ==== Sys2Proof/Machine/Bus.lean ====
section
/-! DEFINITION. The host register space: the address map (spec/10_state.md R31, R32), read values and read side effects
(spec/20_memory.md R82, R83), write effects (R84), and the acceptance of a transaction (R81). -/

namespace Sys2Proof.Machine

/-- The global registers (R31). -/
inductive GlobalReg where
  | cap
  | ctrl
  | status
  | out
  | cmd
  | argLo
  | argHi
  | emitData
  | timer
  | sleepLen
  | adv
  | arb
  deriving DecidableEq, Repr

/-- The registers of a motor slot (R32). -/
inductive SlotReg where
  | mcfg
  | spr
  | delay
  | mstate
  | posLo
  | posHi
  | tgtLo
  | tgtHi
  | mpos
  | wcnt
  deriving DecidableEq, Repr

/-- What an address reaches (R31, R32, R88): a global register, a register of an existing slot, or nothing (a reserved
offset or an unmapped address). -/
inductive RegAddr where
  | global (r : GlobalReg)
  | slot (m : SlotIx) (r : SlotReg)
  | unmapped
  deriving DecidableEq, Repr

/-- The byte address of the word an access reaches, `a & 0xFFC` (R87). -/
def wordAddr (a : Addr) : Nat := (a &&& 0xFFC#12).toNat

/-- The global register at a word address below 0x100 (R31). -/
def globalRegAt : Nat → RegAddr
  | 0x000 => .global .cap
  | 0x004 => .global .ctrl
  | 0x008 => .global .status
  | 0x00C => .global .out
  | 0x010 => .global .cmd
  | 0x014 => .global .argLo
  | 0x018 => .global .argHi
  | 0x01C => .global .emitData
  | 0x020 => .global .timer
  | 0x024 => .global .sleepLen
  | 0x028 => .global .adv
  | 0x02C => .global .arb
  | _ => .unmapped

/-- The register at an offset of slot m (R32). -/
def slotRegAt (m : SlotIx) : Nat → RegAddr
  | 0x00 => .slot m .mcfg
  | 0x04 => .slot m .spr
  | 0x08 => .slot m .delay
  | 0x0C => .slot m .mstate
  | 0x10 => .slot m .posLo
  | 0x14 => .slot m .posHi
  | 0x18 => .slot m .tgtLo
  | 0x1C => .slot m .tgtHi
  | 0x20 => .slot m .mpos
  | 0x24 => .slot m .wcnt
  | _ => .unmapped

/-- The address map (R31, R32, R90): slot m at 0x100 + 0x40 * m for m < N_MOTORS. -/
def State.regAt (s : State) (a : Addr) : RegAddr :=
  let w := wordAddr a
  if w < 0x100 then globalRegAt w
  else
    let m := (w - 0x100) / 0x40
    if m < s.cfg.nMotors then
      if h : m < 16 then slotRegAt ⟨m, h⟩ ((w - 0x100) % 0x40) else .unmapped
    else .unmapped

/-! ## Read values (R82) -/

/-- CAP (R33). -/
def capWord (cfg : Config) : Word := BitVec.ofNat 32 (atBit 0 cfg.nMotors + atBit 8 cfg.outWidth)

/-- ADV (R45): ADV[m] in bit m, ADV_DIR[m] in bit 16 + m, 0 for slots that do not exist. -/
def advWord (s : State) : Word :=
  allSlots.foldl
    (fun acc m =>
      if s.isSlot m then
        acc ||| BitVec.ofNat 32 (atBit m.val (s.slot m).adv.toNat + atBit (16 + m.val) (s.slot m).advDir.toNat)
      else acc) 0

/-- ARB (R46). -/
def arbWord (s : State) : Word := BitVec.ofNat 32 (atBit 0 s.rr.val + atBit 8 s.emot.val)

/-- MCFG (R47). -/
def mcfgWord (x : Slot) : Word :=
  BitVec.ofNat 32 (atBit 0 x.reg.toNat + atBit 1 x.dirInv.toNat + atBit 2 x.half.toNat + atBit 8 x.bitOffset.toNat)

/-- MSTATE (R50), derived from the slot. -/
def mstateWord (s : State) (m : SlotIx) : Word :=
  BitVec.ofNat 32 (atBit 0 ((s.slot m).phase (s.posOf m)) + atBit 4 (s.pattern m (s.posOf m)).toNat +
    atBit 8 (s.pending m).toNat + atBit 9 (s.toward m).toNat + atBit 12 (s.slot m).w.code)

/-- MPOS (R53): POS mod SPR, and 0 when SPR = 0. -/
def mposWord (x : Slot) : Word :=
  if x.spr = 0 then 0 else BitVec.ofInt 32 (x.pos.toInt % (x.spr.toNat : ℤ))

/-- The value a global register reads as. Bits OUT and EMIT_DATA have beyond OUT_WIDTH read 0 (R38, R42); CMD reads 0
(R39). -/
def globalRead (s : State) : GlobalReg → Word
  | .cap => capWord s.cfg
  | .ctrl => ctrlWord s
  | .status => statusWord s
  | .out => s.out &&& outMask s.cfg
  | .cmd => 0
  | .argLo => s.argLo
  | .argHi => s.argHi
  | .emitData => s.emitData &&& outMask s.cfg
  | .timer => s.sleepCnt
  | .sleepLen => s.sleepLen
  | .adv => advWord s
  | .arb => arbWord s

/-- The value a register of slot m reads as; POS_HI and TGT_HI read SNAP (R51, R52). -/
def slotRead (s : State) (m : SlotIx) : SlotReg → Word
  | .mcfg => mcfgWord (s.slot m)
  | .spr => (s.slot m).spr
  | .delay => (s.slot m).delay
  | .mstate => mstateWord s m
  | .posLo => loWord (s.slot m).pos
  | .posHi => s.snap
  | .tgtLo => loWord (s.slot m).tgt
  | .tgtHi => s.snap
  | .mpos => mposWord (s.slot m)
  | .wcnt => (s.slot m).wcnt

/-- The read data of an address in the state of the cycle (R82); an address no register occupies reads 0 (R88). -/
def readReg (s : State) (a : Addr) : Word :=
  match s.regAt a with
  | .global r => globalRead s r
  | .slot m r => slotRead s m r
  | .unmapped => 0

/-! ## Read and write effects (R83, R84) -/

/-- The side effect of an accepted read (R83): POS_LO and TGT_LO load SNAP, every other read changes nothing. -/
def readEffect (a : Addr) (s : State) : State :=
  match s.regAt a with
  | .slot m .posLo => { s with snap := hiWord (s.slot m).pos }
  | .slot m .tgtLo => { s with snap := hiWord (s.slot m).tgt }
  | _ => s

/-- A command word executed at the edge its CMD write is accepted (R192); a reserved opcode is refused by R113. -/
def runCommand (w : Word) (s : State) : Host.Outcome State Fault Refusal :=
  match decode w with
  | .ok i => exec i s
  | .error (.reservedOpcode _ m) => .next (execReserved m s)

/-- The effect of an accepted write of v (R84). -/
def writeEffect (a : Addr) (v : Word) (s : State) : Host.Outcome State Fault Refusal :=
  match s.regAt a with
  | .global .ctrl => .next (writeCtrl v s)
  | .global .status => .next (writeStatus v s)
  | .global .argLo => .next { s with argLo := v }
  | .global .argHi => .next { s with argHi := v }
  | .global .cmd => runCommand v s
  | _ => .next s

/-! ## Acceptance (R81) -/

/-- What the host presents in this cycle: nothing once its queue is empty. -/
def State.request (s : State) : BusCycle := s.host.headD .idle

/-- `bus_valid` (R80). -/
def BusCycle.valid : BusCycle → Bool
  | .idle => false
  | .read _ => true
  | .write _ _ => true

/-- The request is a write to CMD (R81). -/
def BusCycle.isCmdWrite : BusCycle → Bool
  | .write a _ => decide (wordAddr a = 0x010)
  | _ => false

/-- `bus_ready` (R81): only a write to CMD is held, and only while an emit is in flight (R221). -/
def State.busReady (s : State) : Bool := !(s.request.isCmdWrite && s.emitting)

/-- The transaction of the cycle is accepted at the edge (R81). -/
def State.accepted (s : State) : Bool := s.request.valid && s.busReady

/-- S1, the state with the accepted host transaction applied, if any (R191). -/
def hostTransaction (s : State) : Host.Outcome State Fault Refusal :=
  if s.accepted then
    match s.request with
    | .idle => .next s
    | .read a => .next (readEffect a s)
    | .write a v => writeEffect a v s
  else .next s

end Sys2Proof.Machine
end

