-- ==== Sys2Proof/Machine/Engine.lean ====
section
/-! DEFINITION. The engine step at one edge, chosen by the FSM state of the cycle (spec/42_scheduler.md R191): the
Discipline A tick machine (R197 to R205), the WRNIB emit (spec/43_output.md R244), and the Discipline B workers with
their round-robin output arbiter (R210 to R219). -/

namespace Sys2Proof.Machine

/-! ## Discipline A (R198 to R205) -/

/-- The largest step delay of the pending slots, the length of the tick's sleep (R200). -/
def State.maxPendingDelay (s : State) : Nat :=
  allSlots.foldl (fun acc m => if s.pending m then max acc (s.slot m).delay.toNat else acc) 0

/-- The position each slot holds after the tick's commit: stepped if pending (R200). -/
def State.tickPos (s : State) (m : SlotIx) : ℤ := if s.pending m then s.steppedPos m else s.posOf m

/-- `ADV <- 0`: the advance set is emptied and ADV_DIR stays (R199, R201, R202; DEDUCED, unsafe,
notes/assumptions/18.md). -/
def clearAdv (s : State) : State := s.mapSlots fun _ x => { x with adv := false }

/-- Emit the holding word as the last emit of a run (R199, R218). -/
def startHolding (s : State) : State := { startEmit s.holdingWord 0 s with fsm := .final }

/-- EVAL with a motor pending (R200): issue one step of every pending motor and emit the composed word. -/
def issueTick (s : State) : State :=
  State.mapSlots
    { startEmit (s.compose s.tickPos) 0 s with
      sleepLen := BitVec.ofNat 32 s.maxPendingDelay
      fsm := .emit }
    fun m x => { x with adv := s.pending m, advDir := s.pending m && s.toward m }

/-- EVAL (R199, R200). -/
def evalStep (s : State) : State := if s.anyPending then issueTick s else clearAdv (startHolding s)

/-- The commit of a tick's issued steps, with `ADV <- 0` (R201). -/
def commitTick (s : State) : State :=
  s.mapSlots fun _ x => { (if x.adv then x.commitStep else x) with adv := false }

/-- EMIT (R201, R202): a failure wins over an acknowledge (R250). -/
def emitStep (p : Pins) (s : State) : State :=
  if p.err then clearAdv (raiseHardwareIOError 0 { s with fsm := .idle })
  else if p.ack then commitTick { ackEmit s with sleepCnt := s.sleepLen, fsm := .sleep }
  else s

/-- SLEEP (R203). -/
def sleepStep (s : State) : State :=
  if 1 < s.sleepCnt.toNat then { s with sleepCnt := s.sleepCnt - 1 } else { s with sleepCnt := 0, fsm := .eval }

/-- FINAL, in either discipline (R205). -/
def finalStep (p : Pins) (s : State) : State :=
  if p.err then raiseHardwareIOError 0 { s with fsm := .idle }
  else if p.ack then { ackEmit s with fsm := .idle, done := true }
  else s

/-- PATCH, the emit of a WRNIB (R244). -/
def patchStep (p : Pins) (s : State) : State :=
  if p.err then raiseHardwareIOError s.emot { s with fsm := .idle }
  else if p.ack then { ackEmit s with fsm := .idle }
  else s

/-! ## Discipline B (R210 to R219) -/

/-- The worker in W_EMIT, if any (R213: at most one exists; notes/assumptions/8.md and 10.md). -/
def State.emittingWorker (s : State) : Option SlotIx :=
  allSlots.find? fun m => s.isSlot m && decide ((s.slot m).w = .emit)

/-- The arbiter's candidates C: waiting and still pending (R215). -/
def State.candidate (s : State) (m : SlotIx) : Bool := s.pending m && decide ((s.slot m).w = .req)

/-- A slot's distance from RR in cyclic order, `(m - RR) mod N_MOTORS` (R216). -/
def State.rrDistance (s : State) (m : SlotIx) : Nat := (((m.val : ℤ) - (s.rr.val : ℤ)) % (s.cfg.nMotors : ℤ)).toNat

/-- The better of the best candidate so far and slot m (R216). -/
def State.closerCandidate (s : State) (best : Option SlotIx) (m : SlotIx) : Option SlotIx :=
  if s.candidate m then
    match best with
    | none => some m
    | some b => if s.rrDistance m < s.rrDistance b then some m else some b
  else best

/-- The granted slot g: the candidate closest to RR in cyclic order (R216). -/
def State.arbiterChoice (s : State) : Option SlotIx := allSlots.foldl s.closerCandidate none

/-- RR after a grant of g, `(g + 1) mod N_MOTORS` (R216). -/
def State.nextRr (s : State) (g : SlotIx) : SlotIx := Fin.ofNat 16 ((g.val + 1) % s.cfg.nMotors)

/-- One worker's transition at an edge that does not abort the run, from its slot before the edge (R211 to R214). `ack`
is the answer its own emit may have got and `granted` the arbiter's choice of this edge (R217). -/
def workerStep (s : State) (ack : Bool) (granted : Option SlotIx) (m : SlotIx) (x : Slot) : Slot :=
  match x.w with
  | .idle => if s.pending m then { x with w := .req } else x
  | .req =>
    if !s.pending m then { x with w := .idle }
    else if granted = some m then { x with w := .emit, advDir := s.toward m }
    else x
  | .emit => if ack then { x.commitStep with w := .sleep, wcnt := x.delay } else x
  | .sleep =>
    if 1 < x.wcnt.toNat then { x with wcnt := x.wcnt - 1 }
    else { x with wcnt := 0, w := if s.pending m then .req else .idle }

/-- The state t with every worker's transition made, all reading the state s before the edge (R210). -/
def workersStep (s : State) (ack : Bool) (granted : Option SlotIx) (t : State) : State :=
  t.mapSlots (workerStep s ack granted)

/-- Every worker is in W_IDLE (R218). -/
def State.allWorkersIdle (s : State) : Bool := allSlots.all fun m => !s.isSlot m || decide ((s.slot m).w = .idle)

/-- The abort on an emit error of worker e (R219). -/
def abortRun (e : SlotIx) (s : State) : State :=
  restWorkers (raiseHardwareIOError e { s with fsm := .idle })

/-- The grant of slot g, the critical section of R217, with the other workers' transitions of the edge. -/
def grantStep (g : SlotIx) (s : State) : State :=
  workersStep s false (some g) { startEmit (s.patch g (s.steppedPos g)) g s with rr := s.nextRr g }

/-- RUNB (R210 to R219). While a worker's emit is in flight the arbiter grants nothing (R215). -/
def runbStep (p : Pins) (s : State) : State :=
  match s.emittingWorker with
  | some e =>
    if p.err then abortRun e s
    else if p.ack then workersStep s true none (ackEmit s)
    else workersStep s false none s
  | none =>
    if s.allWorkersIdle && !s.anyPending then startHolding s
    else
      match s.arbiterChoice with
      | some g => grantStep g s
      | none => workersStep s false none s

/-! ## The engine step (R191) -/

/-- The engine step of the edge on S1, chosen by the FSM state S0.fsm the cycle began with. In IDLE it does nothing
(R197). -/
def engineStep (fsm0 : Fsm) (p : Pins) (s : State) : State :=
  match fsm0 with
  | .idle => s
  | .eval => evalStep s
  | .emit => emitStep p s
  | .sleep => sleepStep s
  | .final => finalStep p s
  | .patch => patchStep p s
  | .runb => runbStep p s

end Sys2Proof.Machine
end

