-- ==== Sys2Proof/Machine/Edge.lean ====
section
/-! DEFINITION. The clock edge (spec/42_scheduler.md R191), reset (spec/70_reset_and_hazards.md R290), the outputs of a
cycle (spec/20_memory.md R80, spec/43_output.md R245), and what a model may say of the latch device (R249, R292). -/

namespace Sys2Proof.Machine

/-- The pins sampled at the coming edge. -/
def State.pin (s : State) : Pins := s.pins.headD Pins.quiet

/-- The host's queue after this edge: a request leaves it when it is accepted and is kept stable until then (R81,
R290); an idle cycle passes. -/
def State.hostAfter (s : State) : List BusCycle :=
  match s.request with
  | .idle => s.host.tail
  | _ => if s.accepted && !s.pin.rst then s.host.tail else s.host

/-- The surroundings move on by one edge from the cycle s0: its pins are used up and its request accepted or kept. -/
def advance (s0 s : State) : State :=
  { s with pins := s0.pins.tail, host := s0.hostAfter, edge := s0.edge + 1 }

/-- The state after an edge with `rst` = 1 (R60, R290): every field of the block at its reset value, the transaction of
the cycle not accepted. -/
def resetEdge (s : State) : State := State.resetWith s.cfg s.pins.tail s.hostAfter (s.edge + 1)

/-- The second half of an edge: the engine step on S1, chosen by the FSM state of S0 (R191). -/
def finishEdge (s0 s1 : State) : State := advance s0 (engineStep s0.fsm s0.pin s1)

/-- One clock edge (R191): reset, or the accepted host transaction and then the engine step (notes/assumptions/20.md). -/
def clockEdge (s : State) : Host.Outcome State Fault Refusal :=
  if s.pin.rst then .next (resetEdge s)
  else
    match hostTransaction s with
    | .next s1 => .next (finishEdge s s1)
    | .fault r => .fault r
    | .refused r => .refused r

/-! ## The outputs of a cycle -/

/-- `emit_valid` (R245). -/
def State.emitValid (s : State) : Bool := s.emitting

/-- `emit_data`, the low OUT_WIDTH bits of EMIT_DATA (R245). -/
def State.emitDataPort (s : State) : Word := s.emitData &&& outMask s.cfg

/-- `bus_rdata` of a cycle in which the host presents a read (R82); the spec gives it no value in another cycle
(DESIGN CHOICE, safe, notes/assumptions/14.md). -/
def State.busRdata (s : State) : Option Word :=
  match s.request with
  | .read a => some (readReg s a)
  | _ => none

/-- The word the latch device shows: OUT after an acknowledged emit; any value before the first one, after a failed
one, and while an emit is in flight (R249, R292; I1, I2, I4). The serial order of its shift is outside (R15). -/
def State.latchWord (s : State) : Word :=
  if s.latchKnown && !s.emitting then s.out else Config.freeLatchWord s.edge &&& outMask s.cfg

end Sys2Proof.Machine
end

