-- ==== Sys2Proof/Machine/Step.lean ====
section
/-! DEFINITION. One step of the machine is one clock edge (spec/42_scheduler.md R191), and how a command is put where
the next step runs it (spec/20_memory.md R84, R96). -/

namespace Sys2Proof.Machine

/-- One step: one clock edge (R21, R191). -/
def step (s : State) : Host.Outcome State Fault Refusal := clockEdge s

/-- The pins with `rst` = 0 at the coming edge. -/
def withoutReset : List Pins → List Pins
  | [] => []
  | p :: ps => { p with rst := false } :: ps

/-- The state in which the host's next bus cycle writes the word w to CMD (0x010), with no reset at that edge. The
block fetches nothing (R96): a command arrives as the data of a bus write, so this is where step takes its next command
from. While an emit is in flight that write is held (R221), by the spec's own rule. -/
def State.withFetchWord (s : State) (nbits w : Nat) : State :=
  { s with
    pins := withoutReset s.pins
    host := .write 0x010#12 (BitVec.ofNat 32 (w % 2 ^ nbits)) :: s.host }

end Sys2Proof.Machine
end

