-- ==== Sys2Proof/Safety.lean ====
section
/-! DEFINITION. What holds of every state a run from reset can reach: the invariant of the block, collected from the
rules that say "only", "never" and "at most one" (spec/10_state.md R43, R54, R59, R63; spec/41_motor.md R170, R172;
spec/42_scheduler.md R204, R205, R216; spec/43_output.md R246). No run of this machine ends in a fault (R260). -/

namespace Sys2Proof.Machine

/-- The invariant every step keeps. Each field cites the rule it writes out. What the machine does in a state without it
is notes/assumptions/8.md. -/
structure Invariant (s : State) : Prop where
  /-- The parameters are legal (R11, R12). -/
  cfg : s.cfg.WF
  /-- A slot that does not exist holds nothing (R32). -/
  absent : ∀ m, s.isSlot m = false → s.slot m = Slot.reset
  /-- A registered slot is calibrated and its nibble fits the word (R63 (2)). -/
  calibrated : ∀ m, s.registered m = true →
    (s.slot m).spr ≠ 0 ∧ (s.slot m).delay ≠ 0 ∧ (s.slot m).bitOffset.toNat % 4 = 0 ∧
      (s.slot m).bitOffset.toNat + 4 ≤ s.cfg.outWidth
  /-- Two registered slots never share a nibble (R63 (1)). -/
  disjoint : ∀ m j, m ≠ j → s.registered m = true → s.registered j = true →
    (s.slot m).bitOffset ≠ (s.slot j).bitOffset
  /-- At most one worker has an emit in flight, and it owns it (R57, R63 (3), R213). -/
  oneEmit : ∀ m, (s.slot m).w = .emit → s.emot = m
  /-- Workers are active only in RUNB (R59). -/
  workersRest : s.fsm ≠ .runb → ∀ m, (s.slot m).w = .idle
  /-- WCNT is 0 but for a sleeping worker, which has between 1 and DELAY cycles to go (R54, R214). -/
  workerSleep : ∀ m,
    if (s.slot m).w = .sleep then
      1 ≤ (s.slot m).wcnt.toNat ∧ (s.slot m).wcnt.toNat ≤ (s.slot m).delay.toNat
    else (s.slot m).wcnt = 0
  /-- SLEEP_CNT is 0 outside SLEEP, and between 1 and SLEEP_LEN in it (R43, R203). -/
  timer : if s.fsm = .sleep then 1 ≤ s.sleepCnt.toNat ∧ s.sleepCnt.toNat ≤ s.sleepLen.toNat else s.sleepCnt = 0
  /-- A tick in flight sleeps at least one cycle (R200, R203). -/
  tickSleep : s.fsm = .emit → s.sleepLen ≠ 0
  /-- The ADV set is empty but for a tick in flight, whose ADV set is the pending motors (R200, R201, R202). -/
  advSet : ∀ m, (s.slot m).adv = (decide (s.fsm = .emit) && s.pending m)
  /-- An issued step of a tick goes toward the target (R170, R172). -/
  tickDir : s.fsm = .emit → ∀ m, s.pending m = true → (s.slot m).advDir = s.toward m
  /-- A worker's issued step is of a pending motor and goes toward its target (R170, R172, R217). -/
  workerDir : ∀ m, (s.slot m).w = .emit → s.pending m = true ∧ (s.slot m).advDir = s.toward m
  /-- The word of a tick in flight shows every motor at its position after the commit (R204). -/
  tickWord : s.fsm = .emit → s.emitData = s.compose s.tickPos ∧ s.emot = 0
  /-- The word of a worker in flight is OUT with its nibble stepped (R217). -/
  workerWord : ∀ m, (s.slot m).w = .emit → s.emitData = s.patch m (s.steppedPos m)
  /-- While the holding word is in flight no motor is pending, and the word shows every motor (R205). -/
  holding : s.fsm = .final → (∀ m, s.pending m = false) ∧ s.emitData = s.holdingWord ∧ s.emot = 0
  /-- OUT and EMIT_DATA have no bit beyond OUT_WIDTH (R38, R42). -/
  width : s.out &&& outMask s.cfg = s.out ∧ s.emitData &&& outMask s.cfg = s.emitData
  /-- RR and EMOT name existing slots (R57, R216). -/
  pointers : s.isSlot s.rr = true ∧ s.isSlot s.emot = true

end Sys2Proof.Machine
end

