-- ==== Sys2Proof/Certificates/Slice0/Obligations.lean ====
section
/-! DEFINITION. The statements for the provers, in the order of spec/: encoding (30), angle comparator (40), motor
commands (41), scheduler and workers (42), output and emits (43), errors (60), bus (10, 20) and reset (70). The names
under `Sys2Proof.Claims` are the statements' own vocabulary, written from the rules and not from the meanings.

Where a statement is about a next state `t`, an equation `t.withSlots s.slots = s'` is its frame: apart from the slots,
every field of the block and of its surroundings is that of `s'`.

The model's own conventions that statements rest on: the signals of an edge come from the queues `pins` and `host`
(`s.pin`, `s.request`; notes/assumptions/2.md and 3.md), and `latchKnown` and `edge` belong to the latch device's free
value (notes/assumptions/5.md). A statement that names them is marked derived in OBLIGATIONS.json. -/

open Sys2Proof Sys2Proof.Machine

namespace Sys2Proof.Claims

/-! ## Vocabulary -/

/-- The natural number in bits hi:lo of a word (R16). -/
def bits (w : Word) (hi lo : Nat) : Nat := w.toNat / 2 ^ lo % 2 ^ (hi + 1 - lo)

/-- The slot number in CMD[11:8] (R111). -/
def motorOf (w : Word) : SlotIx := Fin.ofNat 16 (bits w 11 8)

/-- The bits of a CMD word that the command with this opcode uses, OP among them (R111, R114). -/
def usedBits (op : Nat) : Word :=
  if op = 0 ∨ op = 5 then 0x0000000F#32 else if op = 1 then 0x03FF0F0F#32 else 0x00000F0F#32

/-- The state with an error of this code and slot recorded (R263). -/
def withError (code : ErrCode) (m : SlotIx) (s : State) : State :=
  { s with
    cfgErr := true
    errCode := bif s.cfgErr || s.ioErr then s.errCode else code
    errMotor := bif s.cfgErr || s.ioErr then s.errMotor else m }

/-- The state with the HardwareIOError of slot m recorded (R263); the latch device is unknown from here on (R249). -/
def withIoError (m : SlotIx) (s : State) : State :=
  { s with
    ioErr := true
    errCode := bif s.cfgErr || s.ioErr then s.errCode else .ioFail
    errMotor := bif s.cfgErr || s.ioErr then s.errMotor else m
    latchKnown := false }

/-- The state after an edge at which nothing but the surroundings moved: the host presented nothing. -/
def moved (s : State) : State := { s with pins := s.pins.tail, host := s.host.tail, edge := s.edge + 1 }

/-- The first failing check of a list of checks in order (R265). -/
def firstFailing : List (Bool × ErrCode) → Option ErrCode
  | [] => none
  | (fails, code) :: rest => if fails then some code else firstFailing rest

/-- The checks of each command in the order of R265. RUN's "no effect while an error flag is set" is no check. -/
def checks (s : State) : Instr → List (Bool × ErrCode)
  | .nop => []
  | .configure m off _ _ =>
    [(decide (s.cfg.nMotors ≤ m.val), .badMotor), (s.busy, .busy), (decide (s.argLo = 0), .sprZero),
      (decide (s.argHi = 0), .delayZero), (decide (off % 4 ≠ 0 ∨ s.cfg.outWidth < off + 4), .badOffset),
      (decide (∃ j : SlotIx, j ≠ m ∧ j.val < s.cfg.nMotors ∧ (s.slot j).reg = true ∧ (s.slot j).bitOffset.toNat = off),
        .overlap)]
  | .release m =>
    [(decide (s.cfg.nMotors ≤ m.val), .badMotor), (s.busy, .busy), (!(s.slot m).reg, .notRegistered)]
  | .zero m => [(decide (s.cfg.nMotors ≤ m.val), .badMotor), (!(s.slot m).reg, .notRegistered)]
  | .setTarget m =>
    [(decide (s.cfg.nMotors ≤ m.val), .badMotor), (!(s.slot m).reg, .notRegistered),
      (decide (bits s.argHi 30 20 = 0x7FF), .notFinite),
      (decide (s.posOf m + cmpDelta (s.posOf m) (s.slot m).spr.toNat (f64Value (s.argHi ++ s.argLo)) < -2 ^ 63 ∨
        2 ^ 63 - 1 < s.posOf m + cmpDelta (s.posOf m) (s.slot m).spr.toNat (f64Value (s.argHi ++ s.argLo))), .posRange)]
  | .run _ => [(s.busy, .busy)]
  | .wrnib m =>
    [(decide (s.cfg.nMotors ≤ m.val), .badMotor), (s.busy, .busy), (!(s.slot m).reg, .notRegistered)]

/-- The MOTOR field of a command, recorded as ERR_MOTOR when it is refused (R262). -/
def motorField : Instr → SlotIx
  | .nop => 0
  | .configure m _ _ _ => m
  | .release m => m
  | .zero m => m
  | .setTarget m => m
  | .run m => m
  | .wrnib m => m

/-- The slot whose motor registers a command may write (R162 to R166); WRNIB, RUN and NOP write none. -/
def namedSlot : Instr → Option SlotIx
  | .nop => none
  | .configure m _ _ _ => some m
  | .release m => some m
  | .zero m => some m
  | .setTarget m => some m
  | .run _ => none
  | .wrnib _ => none

/-- A RUN that has no effect at all because an error flag is set (R196). -/
def runSuppressed (s : State) : Instr → Bool
  | .run _ => s.cfgErr || s.ioErr
  | _ => false

/-- The exact step target T = t * spr / 360 of an angle (R146). -/
def stepTarget (t : ℚ) (spr : Nat) : ℚ := t * spr / 360

/-- T has fractional part exactly 1/2: a half-step tie (R148). -/
def halfStepTie (t : ℚ) (spr : Nat) : Prop := ∃ n : ℤ, stepTarget t spr = n + 1 / 2

/-- Slot g may be granted and no other may: no emit is in flight, g is a candidate, and no candidate comes before it in
cyclic order from RR (R215, R216). -/
def granted (s : State) (g : SlotIx) : Prop :=
  (∀ m, s.isSlot m = true → (s.slot m).w ≠ .emit) ∧ (s.slot g).w = .req ∧ s.pending g = true ∧
    ∀ j, (s.slot j).w = .req → s.pending j = true →
      ((g.val : ℤ) - s.rr.val) % s.cfg.nMotors ≤ ((j.val : ℤ) - s.rr.val) % s.cfg.nMotors

/-- A pin sample with no reset and no failure of an emit. -/
def fair (p : Pins) : Prop := p.rst = false ∧ p.err = false

/-- The host only reads registers or presents nothing, as a host that polls STATUS for the end of a run does (R94,
R128). -/
def onlyReads (h : List BusCycle) : Prop := ∀ c ∈ h, c = .idle ∨ ∃ a, c = .read a

/-- Along the run from s no reset comes, no emit fails, and the latch acknowledges every emit within L edges, after a
latency of its own for each (R209, R247). It promises nothing while no emit is in flight. -/
def answersWithin (L : Nat) (s : State) : Prop :=
  (∀ p ∈ s.pins, fair p) ∧
    ∀ (k : Nat) (u : State), k + L ≤ s.pins.length → Sys2Proof.core.run k s = .next u → u.emitting = true →
      ∃ p ∈ (s.pins.drop k).take L, p.ack = true

/-- An emit is in flight: the set of R61, written out. -/
abbrev emitInFlight (s : State) : Prop :=
  s.fsm ∈ [Fsm.emit, .final, .patch] ∨
    s.fsm = .runb ∧ ∃ m : SlotIx, m.val < s.cfg.nMotors ∧ (s.slot m).w = .emit

/-- The numbers of the FSM states (the table of R56). -/
def fsmNumber : Fsm → Nat
  | .idle => 0
  | .eval => 1
  | .emit => 2
  | .sleep => 3
  | .final => 4
  | .patch => 5
  | .runb => 6

/-- The numbers of the errors (the table of R261). -/
def errNumber : ErrCode → Nat
  | .none => 0
  | .badOpcode => 1
  | .badMotor => 2
  | .busy => 3
  | .notRegistered => 4
  | .sprZero => 5
  | .delayZero => 6
  | .badOffset => 7
  | .overlap => 8
  | .notFinite => 9
  | .posRange => 10
  | .ioFail => 11

/-- The numbers of the worker states (R59). -/
def workerNumber : WState → Nat
  | .idle => 0
  | .req => 1
  | .emit => 2
  | .sleep => 3

/-- The address is POS_LO or TGT_LO of an existing slot, the only registers whose read has an effect (R83). -/
def isLowRead (s : State) (a : Addr) : Prop :=
  ∃ j : SlotIx, j.val < s.cfg.nMotors ∧
    ((a &&& 0xFFC#12).toNat = 0x110 + 0x40 * j.val ∨ (a &&& 0xFFC#12).toNat = 0x118 + 0x40 * j.val)

/-- The state a RUN of the given discipline leaves at its edge from a state at rest (R195). -/
def runStarted (d : Discipline) (s : State) : State :=
  match d with
  | .a => { s with runMode := .a, done := false, fsm := .eval }
  | .b => { s with runMode := .b, done := false, fsm := .runb, rr := 0 }

end Sys2Proof.Claims

open Sys2Proof.Claims

/-! ## Encoding (spec/30_encoding.md) -/

/-- Every command a word can express is read back from its encoding, at every value of every operand (R110 to R112,
R114, R115). -/
def Obligations.DecodeReadsBackEveryEncodedCommand : Prop :=
  ∀ i : Instr, i.WellFormed = true → decode (encode i) = .ok i

/-- R119 with the opcode map of R112 and the fields of R111: every word is exactly one of the seven commands or a
reserved opcode, and each field is read from the bits the field table gives it. -/
def Obligations.DecodingIsTotalAndReadsTheFieldTable : Prop :=
  ∀ w : Word,
    (bits w 3 0 = 0 → decode w = .ok .nop) ∧
    (bits w 3 0 = 1 → decode w =
      .ok (.configure (motorOf w) (bits w 23 16) (decide (bits w 24 24 = 1)) (decide (bits w 25 25 = 1)))) ∧
    (bits w 3 0 = 2 → decode w = .ok (.release (motorOf w))) ∧
    (bits w 3 0 = 3 → decode w = .ok (.zero (motorOf w))) ∧
    (bits w 3 0 = 4 → decode w = .ok (.setTarget (motorOf w))) ∧
    (bits w 3 0 = 5 → decode w = .ok (.run (motorOf w))) ∧
    (bits w 3 0 = 6 → decode w = .ok (.wrnib (motorOf w))) ∧
    (7 ≤ bits w 3 0 → decode w = .error (.reservedOpcode (BitVec.ofNat 4 (bits w 3 0)) (motorOf w)))

/-- R114: words of one command that agree on the bits the command uses have the same effect in every state. The one
exception is R262's: a RUN refused with BUSY records its unused MOTOR field. -/
def Obligations.IgnoredBitsNeverChangeACommand : Prop :=
  ∀ (v w : Word) (s : State), bits v 3 0 < 7 → (bits v 3 0 = 5 → s.busy = false) →
    v &&& usedBits (bits v 3 0) = w &&& usedBits (bits v 3 0) → runCommand v s = runCommand w s

/-- The worked command words of R121 and the worked angle operands of R122. -/
def Obligations.WorkedEncodingsDecode : Prop :=
  decode 0x00000000#32 = .ok .nop ∧
  decode 0x00000001#32 = .ok (.configure 0 0 false false) ∧
  decode 0x02040101#32 = .ok (.configure 1 4 false true) ∧
  decode 0x01040101#32 = .ok (.configure 1 4 true false) ∧
  decode 0x00000102#32 = .ok (.release 1) ∧
  decode 0x00000003#32 = .ok (.zero 0) ∧
  decode 0x00000104#32 = .ok (.setTarget 1) ∧
  decode 0x00000005#32 = .ok (.run 0) ∧
  decode 0x00000106#32 = .ok (.wrnib 1) ∧
  decode 0x00000007#32 = .error (.reservedOpcode 7 0) ∧
  f64Value 0x4056800000000000#64 = 90 ∧ f64Value 0xC056800000000000#64 = -90 ∧
  f64Value 0x0000000000000000#64 = 0 ∧ f64Value 0x4066800000000000#64 = 180 ∧
  f64Value 0x4075600000000000#64 = 342 ∧ f64Value 0x4024000000000000#64 = 10 ∧
  f64Value 0x3FB6800000000000#64 = 45 / 512 ∧
  f64IsFinite 0x7FF8000000000000#64 = false ∧ f64IsFinite 0x7FF0000000000000#64 = false

/-- R113: a CMD word with OP in 0x7 to 0xF records BAD_OPCODE with its MOTOR field and has no other effect. -/
def Obligations.ReservedOpcodesRecordBadOpcode : Prop :=
  ∀ (w : Word) (s : State), 7 ≤ bits w 3 0 → runCommand w s = .next (withError .badOpcode (motorOf w) s)

/-- R117: which binary64 operands are finite, and the exact value of those that are. -/
def Obligations.AngleOperandHasItsBinary64Value : Prop :=
  ∀ a : BitVec 64,
    (f64IsFinite a = true ↔ a.toNat / 2 ^ 52 % 2 ^ 11 ≠ 0x7FF) ∧
    (a.toNat / 2 ^ 52 % 2 ^ 11 = 0 →
      f64Value a = (-1) ^ (a.toNat / 2 ^ 63) * ((a.toNat % 2 ^ 52 : Nat) : ℚ) * (2 : ℚ) ^ (-1074 : ℤ)) ∧
    (a.toNat / 2 ^ 52 % 2 ^ 11 ≠ 0 → a.toNat / 2 ^ 52 % 2 ^ 11 ≠ 0x7FF →
      f64Value a = (-1) ^ (a.toNat / 2 ^ 63) * ((2 ^ 52 + a.toNat % 2 ^ 52 : Nat) : ℚ) *
        (2 : ℚ) ^ (((a.toNat / 2 ^ 52 % 2 ^ 11 : Nat) : ℤ) - 1075))

/-! ## Angle comparator (spec/40_anglemath.md) -/

/-- R141: `normalize` is the true modulo by 360, with its range and its corner cases. -/
def Obligations.NormalizeIsTheTrueModulo : Prop :=
  (∀ x : ℚ, 0 ≤ normalizeAngle x ∧ normalizeAngle x < 360 ∧ normalizeAngle x = x - 360 * (⌊x / 360⌋ : ℤ)) ∧
  normalizeAngle 360 = 0 ∧ normalizeAngle (-90) = 270 ∧ normalizeAngle (720 + 1 / 2) = 1 / 2 ∧ normalizeAngle (-10) = 350

/-- R142 and R143: `shortest_delta` lies in (-180, 180], reaches the target exactly, is the raw formula but for the
tie, and a tie is +180. -/
def Obligations.ShortestDeltaReachesTheTargetTheShortWay : Prop :=
  ∀ a b : ℚ,
    -180 < shortestDelta a b ∧ shortestDelta a b ≤ 180 ∧
    normalizeAngle (a + shortestDelta a b) = normalizeAngle b ∧
    (normalizeAngle (b - a + 180) - 180 ≠ -180 → shortestDelta a b = normalizeAngle (b - a + 180) - 180) ∧
    ((∃ n : ℤ, b - a = 180 * (2 * n + 1)) → shortestDelta a b = 180)

/-- R144 and R150: `degrees_to_steps` rounds the exact quotient to a nearest integer, a half away from zero, and 360
degrees are `spr` steps. -/
def Obligations.DegreesToStepsRoundsHalfAwayFromZero : Prop :=
  ∀ (deg : ℚ) (spr : Nat), 0 < spr →
    |deg * spr / 360 - degreesToSteps deg spr| ≤ 1 / 2 ∧
    (|deg * spr / 360 - degreesToSteps deg spr| = 1 / 2 → |deg * spr / 360| < |(degreesToSteps deg spr : ℚ)|) ∧
    degreesToSteps 360 spr = spr

/-- R146: the comparator in step units. -/
def Obligations.ComparatorEqualsItsStepDomainForm : Prop :=
  ∀ (p : ℤ) (spr : Nat) (t : ℚ), 0 < spr →
    let c : ℚ := (p % (spr : ℤ) : ℤ)
    let x := ratMod (stepTarget t spr - c + spr / 2) spr - spr / 2
    cmpDelta p spr t = roundHaz (if x = -(spr : ℚ) / 2 then (spr : ℚ) / 2 else x)

/-- R147: the range of the delta. -/
def Obligations.ComparatorDeltaIsAtMostHalfARevolution : Prop :=
  ∀ (p : ℤ) (spr : Nat) (t : ℚ), 0 < spr →
    -((spr / 2 : Nat) : ℤ) ≤ cmpDelta p spr t ∧ cmpDelta p spr t ≤ (((spr + 1) / 2 : Nat) : ℤ)

/-- R173 as it follows from R166 (90_conflicts.md C2): after convergence the same angle gives delta 0, but at a
half-step tie, where the second delta undoes one step of the first. With one step per revolution the only tie is the
angle tie, which always gives +1 (notes/assumptions/9.md). -/
def Obligations.RepeatedTargetMovesOnlyAtAHalfStepTie : Prop :=
  ∀ (p : ℤ) (spr : Nat) (t : ℚ), 0 < spr →
    (¬ halfStepTie t spr → cmpDelta (p + cmpDelta p spr t) spr t = 0) ∧
    (halfStepTie t spr → 1 < spr → cmpDelta p spr t ≠ 0 ∧
      cmpDelta (p + cmpDelta p spr t) spr t = if 0 < cmpDelta p spr t then -1 else 1) ∧
    (halfStepTie t spr → spr = 1 → cmpDelta p spr t = 1)

/-- R174: where the last target leaves the motor, modulo one revolution. -/
def Obligations.TargetIsTheAngleModuloOneRevolution : Prop :=
  ∀ (p : ℤ) (spr : Nat) (t : ℚ), 0 < spr →
    (¬ halfStepTie t spr → (p + cmpDelta p spr t) % (spr : ℤ) = degreesToSteps (normalizeAngle t) spr % (spr : ℤ)) ∧
    (halfStepTie t spr → (p + cmpDelta p spr t) % (spr : ℤ) = degreesToSteps (normalizeAngle t) spr % (spr : ℤ) ∨
      (p + cmpDelta p spr t) % (spr : ℤ) = (degreesToSteps (normalizeAngle t) spr - 1) % (spr : ℤ))

/-! ## Motor commands (spec/41_motor.md) -/

/-- R161: the coil pattern is the table entry of the phase `p mod L`, for negative positions too, and an inverted slot
reads the table backwards from position 0. -/
def Obligations.CoilPatternReadsTheTableAtThePhase : Prop :=
  ∀ (cfg : Config) (x : Slot) (p : ℤ),
    (x.dirInv = false → x.half = false → ∀ k : Fin 4, p % 4 = k.val → x.pattern cfg p = cfg.seq4[k]) ∧
    (x.dirInv = false → x.half = true → ∀ k : Fin 8, p % 8 = k.val → x.pattern cfg p = cfg.seq8[k]) ∧
    (x.dirInv = true → x.pattern cfg p = { x with dirInv := false }.pattern cfg (-p))

/-- R162: CONFIGURE on valid operands constructs the motor and changes nothing else. -/
def Obligations.ConfigureConstructsTheMotor : Prop :=
  ∀ (s : State) (m : SlotIx) (off : Nat) (dinv half : Bool),
    m.val < s.cfg.nMotors → s.busy = false → s.argLo ≠ 0 → s.argHi ≠ 0 → off % 4 = 0 → off + 4 ≤ s.cfg.outWidth →
    (∀ j : SlotIx, j ≠ m → s.registered j = true → (s.slot j).bitOffset.toNat ≠ off) →
    ∃ t, exec (.configure m off dinv half) s = .next t ∧
      t.slot m = { s.slot m with
        reg := true, dirInv := dinv, half := half, bitOffset := BitVec.ofNat 8 off,
        spr := s.argLo, delay := s.argHi, pos := 0, tgt := 0 } ∧
      (∀ j, j ≠ m → t.slot j = s.slot j) ∧ t.withSlots s.slots = s

/-- R164: RELEASE of a registered motor outside a run clears REG and leaves every other field as it was. -/
def Obligations.ReleaseUnregistersTheMotor : Prop :=
  ∀ (s : State) (m : SlotIx), m.val < s.cfg.nMotors → s.busy = false → (s.slot m).reg = true →
    ∃ t, exec (.release m) s = .next t ∧
      t.slot m = { s.slot m with reg := false } ∧
      (∀ j, j ≠ m → t.slot j = s.slot j) ∧ t.withSlots s.slots = s

/-- R163: ZERO of a registered motor, in a run or not, sets POS = TGT = 0 and changes nothing else. -/
def Obligations.ZeroSetsPositionAndTargetToZero : Prop :=
  ∀ (s : State) (m : SlotIx), m.val < s.cfg.nMotors → (s.slot m).reg = true →
    ∃ t, exec (.zero m) s = .next t ∧
      t.slot m = { s.slot m with pos := 0, tgt := 0 } ∧ t.pending m = false ∧
      (∀ j, j ≠ m → t.slot j = s.slot j) ∧ t.withSlots s.slots = s

/-- R166: SET_TARGET of a registered motor with a finite angle sets TGT to the current position plus the shortest-path
delta, when that fits 64 bits, and changes nothing else. -/
def Obligations.SetTargetTakesTheShortestPath : Prop :=
  ∀ (s : State) (m : SlotIx), m.val < s.cfg.nMotors → (s.slot m).reg = true → (s.slot m).spr ≠ 0 →
    f64IsFinite (s.argHi ++ s.argLo) = true →
    let spr := (s.slot m).spr.toNat
    let d := shortestDelta (stepsToDegrees (s.posOf m % (spr : ℤ)) spr) (normalizeAngle (f64Value (s.argHi ++ s.argLo)))
    let nt := s.posOf m + degreesToSteps d spr
    nt ≤ 2 ^ 63 - 1 → -2 ^ 63 ≤ nt →
    ∃ t, exec (.setTarget m) s = .next t ∧ t.tgtOf m = nt ∧
      { t.slot m with tgt := (s.slot m).tgt } = s.slot m ∧
      (∀ j, j ≠ m → t.slot j = s.slot j) ∧ t.withSlots s.slots = s

/-- R265 (with R262 to R264): a command whose checks do not all pass records the first failing one and changes nothing
else, a command whose checks all pass records nothing, a RUN while an error flag is set has no effect, and a reserved
opcode records BAD_OPCODE. That a registered slot has SPR > 0 is part of the invariant (R48). -/
def Obligations.RefusedCommandsRecordTheFirstFailingCheck : Prop :=
  ∀ s : State, (∀ m, s.registered m = true → (s.slot m).spr ≠ 0) →
    (∀ i, runSuppressed s i = true → exec i s = .next s) ∧
    (∀ i code, runSuppressed s i = false → firstFailing (checks s i) = some code →
      exec i s = .next (withError code (motorField i) s)) ∧
    (∀ i, runSuppressed s i = false → firstFailing (checks s i) = none → ∃ t, exec i s = .next t ∧
      t.cfgErr = s.cfgErr ∧ t.ioErr = s.ioErr ∧ t.errCode = s.errCode ∧ t.errMotor = s.errMotor) ∧
    (∀ w, 7 ≤ bits w 3 0 → runCommand w s = .next (withError .badOpcode (motorOf w) s))

/-- Every command answers a next state in every state, and leaves these as they were: OUT, SNAP, ARG, CTRL, IO_ERR, the
sleep counter and length, the parameters and the surroundings; every slot it does not name, but for the workers RUN puts
to rest; the step bits of every slot; EMIT_DATA and EMOT but for WRNIB; RR, RUN_MODE and DONE but for RUN; fsm but for
RUN and WRNIB (R162 to R166, R194, R195, R243, R263). -/
def Obligations.CommandsLeaveTheRestUnchanged : Prop :=
  ∀ (i : Instr) (s : State), ∃ t, exec i s = .next t ∧
    t.out = s.out ∧ t.snap = s.snap ∧ t.argLo = s.argLo ∧ t.argHi = s.argHi ∧ t.mode = s.mode ∧
    t.ieDone = s.ieDone ∧ t.ieErr = s.ieErr ∧ t.ioErr = s.ioErr ∧ t.sleepCnt = s.sleepCnt ∧
    t.sleepLen = s.sleepLen ∧ t.cfg = s.cfg ∧ t.pins = s.pins ∧ t.host = s.host ∧ t.edge = s.edge ∧
    t.latchKnown = s.latchKnown ∧
    (∀ j, namedSlot i ≠ some j → { t.slot j with w := (s.slot j).w, wcnt := (s.slot j).wcnt } = s.slot j) ∧
    (∀ j, (t.slot j).adv = (s.slot j).adv ∧ (t.slot j).advDir = (s.slot j).advDir) ∧
    ((∀ m, i ≠ .run m) → t.rr = s.rr ∧ t.runMode = s.runMode ∧ t.done = s.done ∧
      ∀ j, (t.slot j).w = (s.slot j).w ∧ (t.slot j).wcnt = (s.slot j).wcnt) ∧
    ((∀ m, i ≠ .wrnib m) → t.emitData = s.emitData ∧ t.emot = s.emot) ∧
    ((∀ m, i ≠ .run m ∧ i ≠ .wrnib m) → t.fsm = s.fsm)

/-! ## Scheduler commands and Discipline A (spec/42_scheduler.md) -/

/-- R194: NOP changes no state, whatever the other bits of its word. -/
def Obligations.NopChangesNothing : Prop :=
  ∀ (s : State) (w : Word), exec .nop s = .next s ∧ (bits w 3 0 = 0 → runCommand w s = .next s)

/-- R195 and R196: RUN starts the discipline CTRL.MODE selects, in Discipline B with every existing slot's worker at
rest; it records BUSY during a run, and has no effect at all while an error flag is set. That a slot beyond N_MOTORS
stays is the model's choice (notes/assumptions/7.md). -/
def Obligations.RunStartsTheSelectedDiscipline : Prop :=
  ∀ (s : State) (m : SlotIx),
    (s.cfgErr = true ∨ s.ioErr = true → exec (.run m) s = .next s) ∧
    (s.cfgErr = false → s.ioErr = false → s.busy = true → exec (.run m) s = .next (withError .busy m s)) ∧
    (s.cfgErr = false → s.ioErr = false → s.busy = false → s.mode = .a →
      exec (.run m) s = .next { s with runMode := .a, done := false, fsm := .eval }) ∧
    (s.cfgErr = false → s.ioErr = false → s.busy = false → s.mode = .b →
      ∃ t, exec (.run m) s = .next t ∧ t.withSlots s.slots = runStarted .b s ∧
        (∀ j, j.val < s.cfg.nMotors → t.slot j = { s.slot j with w := .idle, wcnt := 0 }) ∧
        (∀ j, s.cfg.nMotors ≤ j.val → t.slot j = s.slot j))

/-- R191 with R81 to R84: S1 is the state with the effect of the cycle's request, a read's or a write's, and the state of
the cycle itself where the host presents nothing or its write to CMD is held; at an edge without reset this transaction
is applied first and the engine step second. In IDLE the engine does nothing, so the edge is the transaction; in every
other FSM state the edge is the edge of the state the transaction left, with the host presenting nothing. -/
def Obligations.TransactionFirstEngineSecond : Prop :=
  (∀ s : State,
    (s.request = .idle → hostTransaction s = .next s) ∧
    (∀ a, s.request = .read a → hostTransaction s = .next (readEffect a s)) ∧
    (∀ a v, s.request = .write a v → a &&& 0xFFC#12 ≠ 0x010#12 ∨ s.emitting = false →
      hostTransaction s = writeEffect a v s) ∧
    (∀ a v, s.request = .write a v → a &&& 0xFFC#12 = 0x010#12 → s.emitting = true → hostTransaction s = .next s)) ∧
  ∀ s s1 : State, s.pin.rst = false → hostTransaction s = .next s1 →
    (s.fsm = .idle → step s = .next { s1 with pins := s.pins.tail, host := s.hostAfter, edge := s.edge + 1 }) ∧
    (s.fsm ≠ .idle → s1.fsm = s.fsm ∧ step s = step { s1 with host := .idle :: s.hostAfter })

/-- A step whose bus cycle writes a command word to CMD, with no reset and no emit in flight, runs the decoded command
on the state of the cycle, or records BAD_OPCODE for a reserved opcode (R113); then the engine step of that cycle's FSM
state follows, and the surroundings move on (R191, R192). -/
def Obligations.StepRunsTheDecodedCommand : Prop :=
  ∀ (s : State) (a : Addr) (w : Word) (rest : List BusCycle),
    s.pin.rst = false → s.emitting = false → s.host = .write a w :: rest → a &&& 0xFFC#12 = 0x010#12 →
    (∀ (i : Instr) (t : State), decode w = .ok i → exec i s = .next t →
      step s = .next { engineStep s.fsm s.pin t with pins := s.pins.tail, host := rest, edge := s.edge + 1 }) ∧
    (7 ≤ bits w 3 0 → step s = .next { engineStep s.fsm s.pin (withError .badOpcode (motorOf w) s) with
      pins := s.pins.tail, host := rest, edge := s.edge + 1 })

/-- R81, R221 and R307: every request but a write to CMD is accepted in the cycle it is presented, and so is a write to
CMD with no emit in flight; a write to CMD while an emit is in flight is held: the edge is that of a host that presents
nothing, and the request stays. -/
def Obligations.OnlyCommandWritesWaitAndOnlyForAnEmit : Prop :=
  ∀ (s : State) (c : BusCycle) (rest : List BusCycle), s.pin.rst = false → s.host = c :: rest →
    (c ≠ .idle → (∀ a v, c = .write a v → a &&& 0xFFC#12 ≠ 0x010#12) ∨ s.emitting = false →
      s.busReady = true ∧ ∃ t, step s = .next t ∧ t.host = rest) ∧
    (∀ a v, c = .write a v → a &&& 0xFFC#12 = 0x010#12 → s.emitting = true →
      s.busReady = false ∧ step s = step { s with host := .idle :: s.host } ∧ ∃ t, step s = .next t ∧ t.host = s.host)

/-- R199: EVAL with no motor pending emits the holding word. Two clauses are the model's choice and not R199's: that
`ADV <- 0` leaves ADV_DIR as it was (notes/assumptions/18.md), and that a slot beyond N_MOTORS stays
(notes/assumptions/7.md). -/
def Obligations.EvalWithNothingPendingEmitsTheHoldingWord : Prop :=
  ∀ s : State, s.pin.rst = false → s.request = .idle → s.fsm = .eval → (∀ m, s.pending m = false) →
    ∃ t, step s = .next t ∧
      (∀ m, m.val < s.cfg.nMotors → t.slot m = { s.slot m with adv := false }) ∧
      (∀ m, s.cfg.nMotors ≤ m.val → t.slot m = s.slot m) ∧
      t.withSlots s.slots = { moved s with fsm := .final, emot := 0, emitData := s.compose s.posOf }

/-- R200: EVAL with a motor pending issues one step of every pending motor, emits the composed word of the new
positions, and sets the tick's sleep to the largest delay of the motors that move. That a slot beyond N_MOTORS stays
is the model's choice (notes/assumptions/7.md). -/
def Obligations.EvalIssuesOneStepOfEveryPendingMotor : Prop :=
  ∀ s : State, s.pin.rst = false → s.request = .idle → s.fsm = .eval → (∃ m, s.pending m = true) →
    ∃ t, step s = .next t ∧
      (∀ m, m.val < s.cfg.nMotors → t.slot m =
        { s.slot m with adv := s.pending m, advDir := s.pending m && decide (s.posOf m < s.tgtOf m) }) ∧
      (∀ m, s.cfg.nMotors ≤ m.val → t.slot m = s.slot m) ∧
      (∀ m, s.pending m = true → (s.slot m).delay.toNat ≤ t.sleepLen.toNat) ∧
      (∃ m, s.pending m = true ∧ t.sleepLen = (s.slot m).delay) ∧
      t.withSlots s.slots = { moved s with
        fsm := .emit
        emot := 0
        emitData := s.compose (fun m =>
          if s.pending m then (if s.posOf m < s.tgtOf m then s.posOf m + 1 else s.posOf m - 1) else s.posOf m)
        sleepLen := t.sleepLen }

/-- R201, R202 and R250: the end of a tick's emit: an acknowledge commits the issued steps, a failure discards them, and
no answer changes nothing. Three clauses are the model's choice and not R201's or R202's: that `ADV <- 0` leaves ADV_DIR
as it was (notes/assumptions/18.md), that after a failure EMIT_DATA, EMOT and SLEEP_LEN stay as EVAL set them
(notes/assumptions/21.md), and that a slot beyond N_MOTORS stays (notes/assumptions/7.md). -/
def Obligations.TickCommitsOnlyOnAcknowledge : Prop :=
  ∀ s : State, s.pin.rst = false → s.request = .idle → s.fsm = .emit →
    (s.pin.err = true → ∃ t, step s = .next t ∧
      (∀ m, m.val < s.cfg.nMotors → t.slot m = { s.slot m with adv := false }) ∧
      (∀ m, s.cfg.nMotors ≤ m.val → t.slot m = s.slot m) ∧
      t.withSlots s.slots = { withIoError 0 (moved s) with fsm := .idle }) ∧
    (s.pin.err = false → s.pin.ack = true → ∃ t, step s = .next t ∧
      (∀ m, m.val < s.cfg.nMotors → t.slot m = { s.slot m with
        adv := false
        pos := if (s.slot m).adv then (if (s.slot m).advDir then (s.slot m).pos + 1 else (s.slot m).pos - 1)
          else (s.slot m).pos }) ∧
      (∀ m, s.cfg.nMotors ≤ m.val → t.slot m = s.slot m) ∧
      t.withSlots s.slots =
        { moved s with out := s.emitData, latchKnown := true, sleepCnt := s.sleepLen, fsm := .sleep }) ∧
    (s.pin.err = false → s.pin.ack = false → step s = .next (moved s))

/-- R203: from SLEEP with SLEEP_CNT = n ≥ 1 the FSM stays in SLEEP for exactly n edges, whatever commands the host gives
and whatever the latch says, and is then in EVAL. -/
def Obligations.SleepLastsExactlyItsCount : Prop :=
  ∀ (s : State) (n : Nat), s.fsm = .sleep → s.sleepCnt.toNat = n → 1 ≤ n → (∀ p ∈ s.pins, p.rst = false) →
    (∀ k, k < n → ∃ t : State, Sys2Proof.core.run k s = .next t ∧ t.fsm = .sleep ∧ t.sleepCnt.toNat = n - k) ∧
    (∃ t : State, Sys2Proof.core.run n s = .next t ∧ t.fsm = .eval ∧ t.sleepCnt = 0)

/-- R205: an acknowledged holding emit ends the run with DONE, and then every registered motor's POS equals its TGT; a
failed one ends it with the error, EMIT_DATA and EMOT staying by the model's choice (notes/assumptions/21.md). -/
def Obligations.FinalEmitEndsTheRun : Prop :=
  ∀ s : State, Invariant s → s.pin.rst = false → s.request = .idle → s.fsm = .final →
    (s.pin.err = true → step s = .next { withIoError 0 (moved s) with fsm := .idle }) ∧
    (s.pin.err = false → s.pin.ack = true →
      step s = .next { moved s with out := s.emitData, latchKnown := true, fsm := .idle, done := true } ∧
      s.emitData = s.compose s.tgtOf ∧ ∀ m, s.registered m = true → (s.slot m).pos = (s.slot m).tgt) ∧
    (s.pin.err = false → s.pin.ack = false → step s = .next (moved s))

/-- R209 and R204: one tick of Discipline A. From EVAL with a motor pending, a host that at most reads, and a latch that
answers at the lam-th edge of the emit: the composed word of the stepped positions is in flight in the lam cycles after
the EVAL and in no other, the FSM sleeps in the D cycles after those, D the largest delay of the pending motors, and the
next EVAL is exactly 1 + lam + D edges after this one; by then every pending motor has moved one step and OUT shows every
motor at its new position. -/
def Obligations.TickTakesOneLatencyAndTheLargestDelay : Prop :=
  ∀ (s : State) (lam : Nat) (first : Pins) (tail : List Pins),
    Invariant s → s.fsm = .eval → (∃ m, s.pending m = true) → onlyReads s.host → 1 ≤ lam → first.rst = false →
    (∀ p ∈ tail, p.rst = false) →
    s.pins = first :: (List.replicate (lam - 1) Pins.quiet ++ ⟨false, true, false⟩ :: tail) →
    ∃ (t : State) (d : Nat), (∃ m, s.pending m = true ∧ (s.slot m).delay.toNat = d) ∧
      (∀ m, s.pending m = true → (s.slot m).delay.toNat ≤ d) ∧
      (∀ k, 1 ≤ k → k < 1 + lam + d → ∃ u : State, Sys2Proof.core.run k s = .next u ∧
        (k ≤ lam → u.fsm = .emit ∧ u.emitData = s.compose s.tickPos) ∧ (lam < k → u.fsm = .sleep)) ∧
      Sys2Proof.core.run (1 + lam + d) s = .next t ∧ t.fsm = .eval ∧
      (∀ m, t.posOf m = s.tickPos m ∧ t.tgtOf m = s.tgtOf m) ∧ t.out = s.compose s.tickPos

/-- R198 and R205: a run of Discipline A during which the host at most reads, and whose latch acknowledges every emit
within L edges, is over with DONE after a number of edges that depends on its start and on L alone, every motor at its
target and the holding word in OUT. R301 asks every claim about a run to assume that every emit is answered. -/
def Obligations.DisciplineARunConverges : Prop :=
  ∀ (s : State) (L : Nat), Invariant s → s.fsm = .eval →
    ∃ n : Nat, ∀ (pins : List Pins) (host : List BusCycle), n ≤ pins.length → onlyReads host →
      answersWithin L { s with pins := pins, host := host } →
      ∃ t : State, Sys2Proof.core.run n { s with pins := pins, host := host } = .next t ∧
        t.fsm = .idle ∧ t.done = true ∧
        (∀ m, s.registered m = true → (t.slot m).tgt = (s.slot m).tgt ∧ (t.slot m).pos = (s.slot m).tgt) ∧
        t.out = s.compose s.tgtOf

/-! ## Discipline B (spec/42_scheduler.md) -/

/-- R211 to R214: the transition of each existing slot's worker at an edge of RUNB without a failed emit, all from the
state before the edge; and the frame of an edge that neither grants (R217) nor ends the run (R218): outside the slots
only an acknowledge writes, and only OUT. That a slot beyond N_MOTORS stays is the model's choice
(notes/assumptions/7.md). -/
def Obligations.WorkersFollowTheirTransitions : Prop :=
  ∀ (s : State) (m : SlotIx), s.pin.rst = false → s.request = .idle → s.fsm = .runb →
    (s.pin.err = true → ∀ j, s.isSlot j = true → (s.slot j).w ≠ .emit) → m.val < s.cfg.nMotors → ∃ t, step s = .next t ∧
    ((s.slot m).w = .idle → t.slot m = { s.slot m with w := if s.pending m then .req else .idle }) ∧
    ((s.slot m).w = .req → s.pending m = false → t.slot m = { s.slot m with w := .idle }) ∧
    ((s.slot m).w = .req → s.pending m = true → ¬ granted s m → t.slot m = s.slot m) ∧
    ((s.slot m).w = .emit → s.pin.ack = true → t.slot m = { s.slot m with
        pos := if (s.slot m).advDir then (s.slot m).pos + 1 else (s.slot m).pos - 1
        w := .sleep
        wcnt := (s.slot m).delay } ∧ t.out = s.emitData) ∧
    ((s.slot m).w = .emit → s.pin.ack = false → t.slot m = s.slot m ∧ t.out = s.out) ∧
    ((s.slot m).w = .sleep → 1 < (s.slot m).wcnt.toNat → t.slot m = { s.slot m with wcnt := (s.slot m).wcnt - 1 }) ∧
    ((s.slot m).w = .sleep → (s.slot m).wcnt.toNat ≤ 1 →
      t.slot m = { s.slot m with wcnt := 0, w := if s.pending m then .req else .idle }) ∧
    (∀ j, s.cfg.nMotors ≤ j.val → t.slot j = s.slot j) ∧
    ((∃ e, s.isSlot e = true ∧ (s.slot e).w = .emit) → s.pin.ack = true →
      t.withSlots s.slots = { moved s with out := s.emitData, latchKnown := true }) ∧
    ((∃ e, s.isSlot e = true ∧ (s.slot e).w = .emit) → s.pin.ack = false → t.withSlots s.slots = moved s) ∧
    ((∀ e, s.isSlot e = true → (s.slot e).w ≠ .emit) → (∀ g, ¬ granted s g) →
      (∃ e, s.pending e = true ∨ s.isSlot e = true ∧ (s.slot e).w ≠ .idle) → t.withSlots s.slots = moved s)

/-- R215 to R217: while no emit is in flight and some worker waits for a pending motor, exactly one slot is first in
cyclic order from RR, and it is granted: its step is issued, its patched word starts, and RR moves past it. -/
def Obligations.ArbiterGrantsTheFirstInCyclicOrder : Prop :=
  ∀ s : State, s.cfg.WF → s.pin.rst = false → s.request = .idle → s.fsm = .runb →
    (∀ m, s.isSlot m = true → (s.slot m).w ≠ .emit) → (∃ m, (s.slot m).w = .req ∧ s.pending m = true) →
    ∃ g t, granted s g ∧ (∀ j, granted s j → j = g) ∧ step s = .next t ∧
      t.slot g = { s.slot g with w := .emit, advDir := decide (s.posOf g < s.tgtOf g) } ∧
      t.rr.val = (g.val + 1) % s.cfg.nMotors ∧
      (∀ j, j ≠ g → s.isSlot j = true → (t.slot j).w ≠ .emit) ∧
      t.withSlots s.slots = { moved s with
        emitData := s.patch g (if s.posOf g < s.tgtOf g then s.posOf g + 1 else s.posOf g - 1)
        emot := g
        rr := t.rr }

/-- R218: the end of a Discipline B run. -/
def Obligations.DisciplineBEndsWithTheHoldingWord : Prop :=
  ∀ s : State, s.pin.rst = false → s.request = .idle → s.fsm = .runb →
    (∀ m, s.isSlot m = true → (s.slot m).w = .idle) → (∀ m, s.pending m = false) →
    step s = .next { moved s with emitData := s.compose s.posOf, emot := 0, fsm := .final }

/-- R219: an emit error of worker e aborts the Discipline B run. Two clauses are the model's choice and not R219's: that
EMIT_DATA, EMOT, RR and ADV_DIR stay as the grant set them (notes/assumptions/21.md), and that a slot beyond N_MOTORS
stays (notes/assumptions/7.md). -/
def Obligations.WorkerEmitErrorAbortsTheRun : Prop :=
  ∀ (s : State) (e : SlotIx), Invariant s → s.pin.rst = false → s.request = .idle → s.fsm = .runb → (s.slot e).w = .emit →
    s.pin.err = true → ∃ t, step s = .next t ∧
      (∀ m, m.val < s.cfg.nMotors → t.slot m = { s.slot m with w := .idle, wcnt := 0 }) ∧
      (∀ m, s.cfg.nMotors ≤ m.val → t.slot m = s.slot m) ∧
      t.withSlots s.slots = { withIoError e (moved s) with fsm := .idle }

/-- The Discipline B counterpart of DisciplineARunConverges (R210, R216, R218, R301). -/
def Obligations.DisciplineBRunConverges : Prop :=
  ∀ (s : State) (L : Nat), Invariant s → s.fsm = .runb →
    ∃ n : Nat, ∀ (pins : List Pins) (host : List BusCycle), n ≤ pins.length → onlyReads host →
      answersWithin L { s with pins := pins, host := host } →
      ∃ t : State, Sys2Proof.core.run n { s with pins := pins, host := host } = .next t ∧
        t.fsm = .idle ∧ t.done = true ∧
        (∀ m, s.registered m = true → (t.slot m).tgt = (s.slot m).tgt ∧ (t.slot m).pos = (s.slot m).tgt) ∧
        t.out = s.compose s.tgtOf

/-- R220: a Discipline A run and a Discipline B run from one state, with hosts that at most read during the run and no
emit error, that have both ended hold the same position in every motor and the same holding word. -/
def Obligations.BothDisciplinesEndAlike : Prop :=
  ∀ (s ta tb : State) (pa pb : List Pins) (ha hb : List BusCycle) (na nb : Nat),
    Invariant s → s.fsm = .idle → onlyReads ha → onlyReads hb → (∀ p ∈ pa, fair p) → (∀ p ∈ pb, fair p) →
    Sys2Proof.core.run na { runStarted .a s with pins := pa, host := ha } = .next ta → ta.fsm = .idle →
    Sys2Proof.core.run nb { runStarted .b s with pins := pb, host := hb } = .next tb → tb.fsm = .idle →
    ta.done = true ∧ tb.done = true ∧ (∀ m, (ta.slot m).pos = (tb.slot m).pos) ∧ ta.out = tb.out ∧
      ta.out = s.compose s.tgtOf

/-! ## Output and emits (spec/43_output.md) -/

/-- R241: bit b of a composed word is set when some registered motor owns it and its pattern has the coil line set;
bits no registered motor owns are 0. -/
def Obligations.ComposedWordIsTheOrOfThePatterns : Prop :=
  ∀ (s : State) (P : SlotIx → ℤ) (b : Nat), s.cfg.WF → b < 32 →
    ((s.compose P).getLsbD b = true ↔
      b < s.cfg.outWidth ∧ ∃ m, s.registered m = true ∧ (s.slot m).bitOffset.toNat ≤ b ∧
        b < (s.slot m).bitOffset.toNat + 4 ∧ (s.pattern m (P m)).getLsbD (b - (s.slot m).bitOffset.toNat) = true)

/-- R242: a patched word has slot g's pattern in g's nibble and OUT everywhere else. -/
def Obligations.PatchedWordReplacesOneNibble : Prop :=
  ∀ (s : State) (g : SlotIx) (p : ℤ) (b : Nat), s.cfg.WF → b < s.cfg.outWidth →
    (s.patch g p).getLsbD b =
      if (s.slot g).bitOffset.toNat ≤ b ∧ b < (s.slot g).bitOffset.toNat + 4 then
        (s.pattern g p).getLsbD (b - (s.slot g).bitOffset.toNat)
      else s.out.getLsbD b

/-- R251: each registered motor's nibble of a composed word is its own pattern, and a patched word leaves every other
registered motor's nibble as OUT had it. -/
def Obligations.NoMotorDisturbsAnothersNibble : Prop :=
  ∀ (s : State) (P : SlotIx → ℤ) (m : SlotIx), Invariant s → s.registered m = true →
    (s.compose P &&& s.nibbleMask m) >>> (s.slot m).bitOffset.toNat = (s.pattern m (P m)).setWidth 32 ∧
    ∀ (g : SlotIx) (p : ℤ), s.registered g = true → g ≠ m → s.patch g p &&& s.nibbleMask m = s.out &&& s.nibbleMask m

/-- R243: WRNIB of a registered motor outside a run starts the emit of OUT with that motor's nibble at its current
pattern, and changes nothing else. -/
def Obligations.WrnibEmitsThePatchedWord : Prop :=
  ∀ (s : State) (m : SlotIx), m.val < s.cfg.nMotors → s.busy = false → (s.slot m).reg = true →
    exec (.wrnib m) s = .next { s with emitData := s.patch m (s.posOf m), emot := m, fsm := .patch }

/-- R244: the end of a WRNIB emit. It is no run, so DONE stays. That EMIT_DATA and EMOT stay after a failure is the
model's choice (notes/assumptions/21.md). -/
def Obligations.WrnibEmitEndsOnItsAnswer : Prop :=
  ∀ s : State, s.pin.rst = false → s.request = .idle → s.fsm = .patch →
    (s.pin.err = true → step s = .next { withIoError s.emot (moved s) with fsm := .idle }) ∧
    (s.pin.err = false → s.pin.ack = true →
      step s = .next { moved s with out := s.emitData, latchKnown := true, fsm := .idle }) ∧
    (s.pin.err = false → s.pin.ack = false → step s = .next (moved s))

/-- R245: the emit port in every cycle. `emit_valid` is 1 exactly while an emit is in flight (R61), and `emit_data` is
EMIT_DATA bits OUT_WIDTH-1:0, so each coil line of a motor is output line BIT_OFFSET + k. -/
def Obligations.EmitPortDrivesTheWordInFlight : Prop :=
  ∀ s : State, s.cfg.WF →
    (s.emitValid = true ↔ emitInFlight s) ∧
    (∀ b, s.emitDataPort.getLsbD b = (decide (b < s.cfg.outWidth) && s.emitData.getLsbD b)) ∧
    ∀ (P : SlotIx → ℤ) (m : SlotIx) (k : Nat), Invariant s → s.registered m = true → k < 4 →
      s.emitData = s.compose P →
      s.emitDataPort.getLsbD ((s.slot m).bitOffset.toNat + k) = (s.pattern m (P m)).getLsbD k

/-- R248: OUT changes at no edge but reset and the acknowledge of an emit in flight, and then it takes EMIT_DATA. -/
def Obligations.OutChangesOnlyOnAcknowledge : Prop :=
  ∀ s t : State, step s = .next t → s.pin.rst = false →
    (t.out = s.out ∨ s.emitting = true ∧ s.pin.ack = true ∧ s.pin.err = false ∧ t.out = s.emitData) ∧
    (s.emitting = true → s.pin.ack = true → s.pin.err = false → t.out = s.emitData)

/-- R246 and R304: EMIT_DATA holds still while an emit is in flight, an unanswered emit stays in flight, and an answered
one is followed by a cycle with no emit in flight. -/
def Obligations.EmitsHoldStillAndAreSeparated : Prop :=
  ∀ s t : State, Invariant s → step s = .next t → s.pin.rst = false → s.emitting = true →
    t.emitData = s.emitData ∧
    (s.pin.ack = false → s.pin.err = false → t.emitting = true) ∧
    (s.pin.ack = true ∨ s.pin.err = true → t.emitting = false)

/-- R249 and R266: a failed emit, whoever owns it, ends its owner: IDLE, IO_ERR, no word written to OUT, no step
committed, every target kept, and no worker left active. -/
def Obligations.FailedEmitAbortsItsOwner : Prop :=
  ∀ s t : State, Invariant s → step s = .next t → s.pin.rst = false → s.emitting = true → s.pin.err = true →
    t.fsm = .idle ∧ t.ioErr = true ∧ t.out = s.out ∧ t.latchKnown = false ∧
    ∀ m, (t.slot m).pos = (s.slot m).pos ∧ (t.slot m).tgt = (s.slot m).tgt ∧ (t.slot m).w = .idle

/-! ## Whole-machine rules -/

/-- Every step answers a next state: the block has no trap and no fault (R25, R260, R294). -/
def Obligations.EveryStepAnswersANextState : Prop := ∀ s : State, ∃ t, step s = .next t

/-- The invariant holds right after reset. -/
def Obligations.InvariantHoldsAtReset : Prop := Invariant State.reset

/-- Every step keeps the invariant, from every state that has it and whatever the host, the latch and `rst` do (R43, R54,
R59, R63, R170, R204, R205, R246). -/
def Obligations.EveryStepKeepsTheInvariant : Prop := ∀ s t : State, Invariant s → step s = .next t → Invariant t

/-- R172: at an edge without reset and without an accepted command, a motor's position stays, or it is a pending motor's
and goes exactly one step toward its target, between the old position and the target. -/
def Obligations.PositionsMoveOneStepTowardTheTarget : Prop :=
  ∀ (s t : State) (m : SlotIx), Invariant s → step s = .next t → s.pin.rst = false →
    (s.accepted = true → s.request.isCmdWrite = false) →
    t.tgtOf m = s.tgtOf m ∧
    (t.posOf m = s.posOf m ∨
      s.pending m = true ∧
        (s.posOf m < s.tgtOf m ∧ t.posOf m = s.posOf m + 1 ∨ s.tgtOf m < s.posOf m ∧ t.posOf m = s.posOf m - 1))

/-! ## Errors and interrupt (spec/60_exceptions.md) -/

/-- R268: the interrupt output. -/
def Obligations.InterruptIsTheLevelOfItsSources : Prop :=
  ∀ s : State, s.irq = true ↔
    (s.done = true ∧ s.ieDone = true) ∨ ((s.cfgErr = true ∨ s.ioErr = true) ∧ s.ieErr = true)

/-- R37: a write to STATUS at an edge clears exactly the flags written with 1, and a flag the block sets at the same edge
is 1 after it. The signals of the edge are the model's queues (notes/assumptions/2.md, 3.md and 5.md). -/
def Obligations.StatusFlagsAreWriteOneToClear : Prop :=
  ∀ (s : State) (a : Addr) (v : Word) (rest : List BusCycle),
    s.pin.rst = false → s.host = .write a v :: rest → a &&& 0xFFC#12 = 0x008#12 →
    writeEffect a v s = .next { s with
      done := s.done && !v.getLsbD 2, cfgErr := s.cfgErr && !v.getLsbD 3, ioErr := s.ioErr && !v.getLsbD 4 } ∧
    (s.fsm = .idle → step s = .next { s with
      done := s.done && !v.getLsbD 2, cfgErr := s.cfgErr && !v.getLsbD 3, ioErr := s.ioErr && !v.getLsbD 4,
      pins := s.pins.tail, host := rest, edge := s.edge + 1 }) ∧
    (s.fsm = .final → s.pin.ack = true → s.pin.err = false → ∃ t, step s = .next t ∧ t.done = true) ∧
    (s.emitting = true → s.pin.err = true → ∃ t, step s = .next t ∧ t.ioErr = true)

/-! ## Bus and registers (spec/10_state.md, spec/20_memory.md) -/

/-- R35, R84 and R88: a write to CTRL writes the enables always and MODE only while no run is active; a write to ARG_LO
or ARG_HI stores the value; a write to CMD runs the command word; a write to a read-only register, a reserved offset or
an unmapped address has no effect. -/
def Obligations.WritesReachOnlyTheWritableRegisters : Prop :=
  ∀ (s : State) (a : Addr) (v : Word),
    (a &&& 0xFFC#12 = 0x004#12 → s.busy = true →
      writeEffect a v s = .next { s with ieDone := v.getLsbD 8, ieErr := v.getLsbD 9 }) ∧
    (a &&& 0xFFC#12 = 0x004#12 → s.busy = false → writeEffect a v s = .next { s with
      ieDone := v.getLsbD 8, ieErr := v.getLsbD 9, mode := if v.getLsbD 0 then .b else .a }) ∧
    (a &&& 0xFFC#12 = 0x014#12 → writeEffect a v s = .next { s with argLo := v }) ∧
    (a &&& 0xFFC#12 = 0x018#12 → writeEffect a v s = .next { s with argHi := v }) ∧
    (a &&& 0xFFC#12 = 0x010#12 → writeEffect a v s = runCommand v s) ∧
    (a &&& 0xFFC#12 ∉ [0x004#12, 0x008#12, 0x010#12, 0x014#12, 0x018#12] → writeEffect a v s = .next s)

/-- R31 to R46 with R82 and R87: in a cycle in which the host reads, `bus_rdata` is the read value of the addressed
register, of whatever address; and the read value of every global register, at every byte address of its word. STATUS
and ARB are given field by field, with the sets of R61 and the numbers of R56 and R261 written out. -/
def Obligations.GlobalRegistersReadTheirFields : Prop :=
  ∀ (s : State) (a : Addr),
    (s.request = .read a → s.busRdata = some (readReg s a)) ∧
    (a &&& 0xFFC#12 = 0x000#12 → s.cfg.WF →
      (readReg s a).toNat = s.cfg.nMotors + 256 * s.cfg.outWidth) ∧
    (a &&& 0xFFC#12 = 0x004#12 → (readReg s a).toNat =
      (if s.mode = .b then 1 else 0) + (if s.ieDone then 256 else 0) + (if s.ieErr then 512 else 0)) ∧
    (a &&& 0xFFC#12 = 0x008#12 → (readReg s a).toNat =
      (if s.fsm ∈ [Fsm.eval, .emit, .sleep, .final, .runb] then 1 else 0) + (if emitInFlight s then 2 else 0) +
        (if s.done then 4 else 0) + (if s.cfgErr then 8 else 0) + (if s.ioErr then 16 else 0) +
        (if s.runMode = .b then 32 else 0) + 256 * fsmNumber s.fsm + 4096 * errNumber s.errCode +
        65536 * s.errMotor.val) ∧
    (a &&& 0xFFC#12 = 0x00C#12 → s.cfg.WF → (readReg s a).toNat = s.out.toNat % 2 ^ s.cfg.outWidth) ∧
    (a &&& 0xFFC#12 = 0x010#12 → readReg s a = 0) ∧
    (a &&& 0xFFC#12 = 0x014#12 → readReg s a = s.argLo) ∧
    (a &&& 0xFFC#12 = 0x018#12 → readReg s a = s.argHi) ∧
    (a &&& 0xFFC#12 = 0x01C#12 → s.cfg.WF → (readReg s a).toNat = s.emitData.toNat % 2 ^ s.cfg.outWidth) ∧
    (a &&& 0xFFC#12 = 0x020#12 → readReg s a = s.sleepCnt) ∧
    (a &&& 0xFFC#12 = 0x024#12 → readReg s a = s.sleepLen) ∧
    (a &&& 0xFFC#12 = 0x028#12 → ∀ m : SlotIx,
      (readReg s a).getLsbD m.val = (s.isSlot m && (s.slot m).adv) ∧
      (readReg s a).getLsbD (16 + m.val) = (s.isSlot m && (s.slot m).advDir)) ∧
    (a &&& 0xFFC#12 = 0x02C#12 → (readReg s a).toNat = s.rr.val + 256 * s.emot.val)

/-- R32 and R47 to R54 with R82: the read value of every register of an existing slot, which is `bus_rdata` in a cycle
in which the host reads it, with the numbers of R59 and the pending test of R20 written out. -/
def Obligations.SlotRegistersReadTheirFields : Prop :=
  ∀ (s : State) (a : Addr) (m : SlotIx) (off : Nat), m.val < s.cfg.nMotors → off < 0x40 →
    (a &&& 0xFFC#12).toNat = 0x100 + 0x40 * m.val + off →
    (s.request = .read a → s.busRdata = some (readReg s a)) ∧
    (off = 0x00 → (readReg s a).toNat = (if (s.slot m).reg then 1 else 0) + (if (s.slot m).dirInv then 2 else 0) +
      (if (s.slot m).half then 4 else 0) + 256 * (s.slot m).bitOffset.toNat) ∧
    (off = 0x04 → readReg s a = (s.slot m).spr) ∧
    (off = 0x08 → readReg s a = (s.slot m).delay) ∧
    (off = 0x0C → (readReg s a).toNat = (s.posOf m % (if (s.slot m).half then 8 else 4)).toNat +
      16 * (s.pattern m (s.posOf m)).toNat +
      (if (s.slot m).reg = true ∧ (s.slot m).pos ≠ (s.slot m).tgt then 256 else 0) +
      (if s.posOf m < s.tgtOf m then 512 else 0) + 4096 * workerNumber (s.slot m).w) ∧
    (off = 0x10 → readReg s a = (s.slot m).pos.extractLsb' 0 32) ∧
    (off = 0x14 → readReg s a = s.snap) ∧
    (off = 0x18 → readReg s a = (s.slot m).tgt.extractLsb' 0 32) ∧
    (off = 0x1C → readReg s a = s.snap) ∧
    (off = 0x20 → (readReg s a).toNat =
      if (s.slot m).spr = 0 then 0 else (s.posOf m % ((s.slot m).spr.toNat : ℤ)).toNat) ∧
    (off = 0x24 → readReg s a = (s.slot m).wcnt) ∧
    (0x28 ≤ off → readReg s a = 0)

/-- R88: an address no register occupies reads 0, and reading or writing it has no effect. -/
def Obligations.UnmappedAddressesReadZeroAndIgnoreWrites : Prop :=
  ∀ (s : State) (a : Addr) (v : Word),
    (0x030 ≤ (a &&& 0xFFC#12).toNat ∧ (a &&& 0xFFC#12).toNat < 0x100 ∨
      0x100 + 0x40 * s.cfg.nMotors ≤ (a &&& 0xFFC#12).toNat) →
    readReg s a = 0 ∧ readEffect a s = s ∧ writeEffect a v s = .next s

/-- R83 and R297: the LO read of POS or TGT, then any accesses but an LO read of an existing slot, then the HI read of the
same slot, give the 64-bit value of the cycle of the LO read, whatever the engine does in between and however long a CMD
write in between is held; without such a write the HI read comes after one edge for each access. The LO read writes SNAP alone, a read of any other
register changes nothing, and SNAP stays at every edge that accepts no LO read. -/
def Obligations.LowThenHighReadIsTearFree : Prop :=
  (∀ (s : State) (a b : Addr) (m : SlotIx) (mid rest : List BusCycle),
    m.val < s.cfg.nMotors → (∀ p ∈ s.pins, p.rst = false) → s.host = .read a :: (mid ++ .read b :: rest) →
    (∀ c, .read c ∈ mid → ¬ isLowRead s c) →
    ((∀ c v, .write c v ∈ mid → c &&& 0xFFC#12 ≠ 0x010#12) →
      ∃ t : State, Sys2Proof.core.run (mid.length + 1) s = .next t ∧ t.host = .read b :: rest) ∧
    ∀ (n : Nat) (t : State), Sys2Proof.core.run n s = .next t → t.host = .read b :: rest →
      ((a &&& 0xFFC#12).toNat = 0x110 + 0x40 * m.val → (b &&& 0xFFC#12).toNat = 0x114 + 0x40 * m.val →
        ∃ lo hi, s.busRdata = some lo ∧ t.busRdata = some hi ∧ hi ++ lo = (s.slot m).pos) ∧
      ((a &&& 0xFFC#12).toNat = 0x118 + 0x40 * m.val → (b &&& 0xFFC#12).toNat = 0x11C + 0x40 * m.val →
        ∃ lo hi, s.busRdata = some lo ∧ t.busRdata = some hi ∧ hi ++ lo = (s.slot m).tgt)) ∧
  (∀ (s : State) (a : Addr) (m : SlotIx), m.val < s.cfg.nMotors →
    ((a &&& 0xFFC#12).toNat = 0x110 + 0x40 * m.val →
      readEffect a s = { s with snap := (s.slot m).pos.extractLsb' 32 32 }) ∧
    ((a &&& 0xFFC#12).toNat = 0x118 + 0x40 * m.val →
      readEffect a s = { s with snap := (s.slot m).tgt.extractLsb' 32 32 })) ∧
  (∀ (s : State) (a : Addr), ¬ isLowRead s a → readEffect a s = s) ∧
  (∀ s t : State, s.pin.rst = false → (∀ a, s.request = .read a → ¬ isLowRead s a) → step s = .next t →
    t.snap = s.snap)

/-! ## Reset (spec/70_reset_and_hazards.md) -/

/-- R60 and R290: an edge with `rst` = 1 gives every field of the block its reset value, keeps the parameters, accepts
no transaction and ignores the latch. The latch field is the model's own (notes/assumptions/5.md). -/
def Obligations.ResetEdgeClearsTheBlock : Prop :=
  ∀ s : State, s.pin.rst = true → ∃ t, step s = .next t ∧
    (∀ m, t.slot m = ⟨false, false, false, 0, 0, 0, 0, 0, .idle, 0, false, false⟩) ∧
    t.fsm = .idle ∧ t.runMode = .a ∧ t.mode = .a ∧ t.ieDone = false ∧ t.ieErr = false ∧ t.done = false ∧
    t.cfgErr = false ∧ t.ioErr = false ∧ t.errCode = .none ∧ t.errMotor = 0 ∧ t.out = 0 ∧ t.emitData = 0 ∧
    t.argLo = 0 ∧ t.argHi = 0 ∧ t.snap = 0 ∧ t.sleepCnt = 0 ∧ t.sleepLen = 0 ∧ t.rr = 0 ∧ t.emot = 0 ∧
    t.irq = false ∧ t.emitValid = false ∧ t.busReady = true ∧ t.cfg = s.cfg ∧ t.latchKnown = false ∧
    (s.request ≠ .idle → t.host = s.host)

/-- R291 (95_test_vectors.md B1, B8): after reset every register reads 0 but CAP and the MSTATE of each slot. -/
def Obligations.RegistersReadZeroAfterReset : Prop :=
  ∀ a : Addr, readReg State.reset a =
    if a &&& 0xFFC#12 = 0x000#12 then 0x00000802#32
    else if a &&& 0xFFC#12 = 0x10C#12 ∨ a &&& 0xFFC#12 = 0x14C#12 then 0x00000030#32
    else 0#32
end

