-- ==== Sys2Proof/Laws/AngleMath.lean ====
section
/-! SUPPORT. The true modulo and the rounding of the comparator: what each answers,
  and that nothing else answers it. -/

namespace Sys2Proof.Machine

theorem ratMod_range (x : ℚ) {m : ℚ} (hm : 0 < m) : 0 ≤ ratMod x m ∧ ratMod x m < m := by
  unfold ratMod
  have h1 := Int.floor_le (x / m)
  have h2 := Int.lt_floor_add_one (x / m)
  have e : m * (x / m) = x := by field_simp
  constructor
  · nlinarith [mul_le_mul_of_nonneg_left h1 hm.le]
  · nlinarith [mul_lt_mul_of_pos_left h2 hm]

/-- The true modulo is the one value in [0, m) that differs from x by a multiple of m (R17). -/
theorem ratMod_unique {x m y : ℚ} (hm : 0 < m) (h0 : 0 ≤ y) (h1 : y < m) (k : ℤ) (h : x = y + m * k) :
    ratMod x m = y := by
  unfold ratMod
  have : ⌊x / m⌋ = k := by
    rw [Int.floor_eq_iff]
    have e : x / m = y / m + k := by rw [h]; field_simp
    rw [e]
    constructor
    · have := div_nonneg h0 hm.le; linarith
    · have := (div_lt_one hm).2 h1; linarith
  rw [this, h]; ring

theorem ratMod_spec (x : ℚ) (m : ℚ) : x = ratMod x m + m * (⌊x / m⌋ : ℤ) := by unfold ratMod; ring

theorem ratMod_congr {x y m : ℚ} (hm : 0 < m) (k : ℤ) (h : x = y + m * k) : ratMod x m = ratMod y m := by
  refine ratMod_unique hm (ratMod_range y hm).1 (ratMod_range y hm).2 (⌊y / m⌋ + k) ?_
  conv_lhs => rw [h, ratMod_spec y m]
  push_cast; ring

/-- Rounding goes to a nearest integer, and a half away from zero (R17). -/
theorem roundHaz_spec (x : ℚ) : |x - roundHaz x| ≤ 1/2 ∧ (|x - roundHaz x| = 1/2 → |x| < |(roundHaz x : ℚ)|) := by
  unfold roundHaz
  split
  · rename_i h
    have h1 := Int.floor_le (-x + 1/2)
    have h2 := Int.lt_floor_add_one (-x + 1/2)
    have h3 : (0:ℚ) ≤ ⌊-x + 1/2⌋ := by exact_mod_cast Int.floor_nonneg.2 (by linarith)
    push_cast
    constructor
    · rw [abs_le]; constructor <;> linarith
    · intro he
      rw [abs_of_neg h, abs_neg, abs_of_nonneg h3]
      rcases (abs_eq (by norm_num)).1 he with h5 | h5 <;> linarith
  · rename_i h
    push Not at h
    have h1 := Int.floor_le (x + 1/2)
    have h2 := Int.lt_floor_add_one (x + 1/2)
    have h3 : (0:ℚ) ≤ ⌊x + 1/2⌋ := by exact_mod_cast Int.floor_nonneg.2 (by linarith)
    constructor
    · rw [abs_le]; constructor <;> linarith
    · intro he
      rw [abs_of_nonneg h, abs_of_nonneg h3]
      rcases (abs_eq (by norm_num)).1 he with h5 | h5 <;> linarith

theorem roundHaz_intCast (n : ℤ) : roundHaz n = n := by
  unfold roundHaz
  split
  · rw [show (-(n:ℚ) + 1/2) = ((-n : ℤ) : ℚ) + 1/2 by push_cast; ring, Int.floor_intCast_add]; norm_num
  · rw [Int.floor_intCast_add]; norm_num

/-- An integer nearer than one half is the rounded value. -/
theorem roundHaz_unique {x : ℚ} {n : ℤ} (h : |x - n| < 1/2) : roundHaz x = n := by
  have := (roundHaz_spec x).1
  have h2 : |((roundHaz x - n : ℤ) : ℚ)| < 1 := by
    push_cast
    calc |(roundHaz x : ℚ) - n| = |(x - n) - (x - roundHaz x)| := by ring_nf
      _ ≤ |x - n| + |x - roundHaz x| := abs_sub _ _
      _ < 1 := by linarith
  have : roundHaz x - n = 0 := by rw [← Int.abs_lt_one_iff]; exact_mod_cast h2
  omega

end Sys2Proof.Machine
end

