-- ==== Sys2Proof/Laws/State.lean ====
section
/-! SUPPORT. One lemma per field per update of State: what each named operation leaves and what it writes, so that no
later proof unfolds a record update. -/

namespace Sys2Proof.Machine

/-! ## withSlots -/

@[simp] theorem withSlots_cfg (s : State) (v : Vector Slot 16) : (s.withSlots v).cfg = s.cfg := rfl
@[simp] theorem withSlots_mode (s : State) (v : Vector Slot 16) : (s.withSlots v).mode = s.mode := rfl
@[simp] theorem withSlots_ieDone (s : State) (v : Vector Slot 16) : (s.withSlots v).ieDone = s.ieDone := rfl
@[simp] theorem withSlots_ieErr (s : State) (v : Vector Slot 16) : (s.withSlots v).ieErr = s.ieErr := rfl
@[simp] theorem withSlots_done (s : State) (v : Vector Slot 16) : (s.withSlots v).done = s.done := rfl
@[simp] theorem withSlots_cfgErr (s : State) (v : Vector Slot 16) : (s.withSlots v).cfgErr = s.cfgErr := rfl
@[simp] theorem withSlots_ioErr (s : State) (v : Vector Slot 16) : (s.withSlots v).ioErr = s.ioErr := rfl
@[simp] theorem withSlots_runMode (s : State) (v : Vector Slot 16) : (s.withSlots v).runMode = s.runMode := rfl
@[simp] theorem withSlots_fsm (s : State) (v : Vector Slot 16) : (s.withSlots v).fsm = s.fsm := rfl
@[simp] theorem withSlots_errCode (s : State) (v : Vector Slot 16) : (s.withSlots v).errCode = s.errCode := rfl
@[simp] theorem withSlots_errMotor (s : State) (v : Vector Slot 16) : (s.withSlots v).errMotor = s.errMotor := rfl
@[simp] theorem withSlots_out (s : State) (v : Vector Slot 16) : (s.withSlots v).out = s.out := rfl
@[simp] theorem withSlots_emitData (s : State) (v : Vector Slot 16) : (s.withSlots v).emitData = s.emitData := rfl
@[simp] theorem withSlots_argLo (s : State) (v : Vector Slot 16) : (s.withSlots v).argLo = s.argLo := rfl
@[simp] theorem withSlots_argHi (s : State) (v : Vector Slot 16) : (s.withSlots v).argHi = s.argHi := rfl
@[simp] theorem withSlots_sleepCnt (s : State) (v : Vector Slot 16) : (s.withSlots v).sleepCnt = s.sleepCnt := rfl
@[simp] theorem withSlots_sleepLen (s : State) (v : Vector Slot 16) : (s.withSlots v).sleepLen = s.sleepLen := rfl
@[simp] theorem withSlots_rr (s : State) (v : Vector Slot 16) : (s.withSlots v).rr = s.rr := rfl
@[simp] theorem withSlots_emot (s : State) (v : Vector Slot 16) : (s.withSlots v).emot = s.emot := rfl
@[simp] theorem withSlots_snap (s : State) (v : Vector Slot 16) : (s.withSlots v).snap = s.snap := rfl
@[simp] theorem withSlots_slots (s : State) (v : Vector Slot 16) : (s.withSlots v).slots = v := rfl
@[simp] theorem withSlots_pins (s : State) (v : Vector Slot 16) : (s.withSlots v).pins = s.pins := rfl
@[simp] theorem withSlots_host (s : State) (v : Vector Slot 16) : (s.withSlots v).host = s.host := rfl
@[simp] theorem withSlots_latchKnown (s : State) (v : Vector Slot 16) : (s.withSlots v).latchKnown = s.latchKnown := rfl
@[simp] theorem withSlots_edge (s : State) (v : Vector Slot 16) : (s.withSlots v).edge = s.edge := rfl

/-! ## setSlot -/

@[simp] theorem setSlot_cfg (s : State) (m : SlotIx) (x : Slot) : (s.setSlot m x).cfg = s.cfg := withSlots_cfg ..
@[simp] theorem setSlot_mode (s : State) (m : SlotIx) (x : Slot) : (s.setSlot m x).mode = s.mode := withSlots_mode ..
@[simp] theorem setSlot_ieDone (s : State) (m : SlotIx) (x : Slot) : (s.setSlot m x).ieDone = s.ieDone := withSlots_ieDone ..
@[simp] theorem setSlot_ieErr (s : State) (m : SlotIx) (x : Slot) : (s.setSlot m x).ieErr = s.ieErr := withSlots_ieErr ..
@[simp] theorem setSlot_done (s : State) (m : SlotIx) (x : Slot) : (s.setSlot m x).done = s.done := withSlots_done ..
@[simp] theorem setSlot_cfgErr (s : State) (m : SlotIx) (x : Slot) : (s.setSlot m x).cfgErr = s.cfgErr := withSlots_cfgErr ..
@[simp] theorem setSlot_ioErr (s : State) (m : SlotIx) (x : Slot) : (s.setSlot m x).ioErr = s.ioErr := withSlots_ioErr ..
@[simp] theorem setSlot_runMode (s : State) (m : SlotIx) (x : Slot) : (s.setSlot m x).runMode = s.runMode := withSlots_runMode ..
@[simp] theorem setSlot_fsm (s : State) (m : SlotIx) (x : Slot) : (s.setSlot m x).fsm = s.fsm := withSlots_fsm ..
@[simp] theorem setSlot_errCode (s : State) (m : SlotIx) (x : Slot) : (s.setSlot m x).errCode = s.errCode := withSlots_errCode ..
@[simp] theorem setSlot_errMotor (s : State) (m : SlotIx) (x : Slot) : (s.setSlot m x).errMotor = s.errMotor := withSlots_errMotor ..
@[simp] theorem setSlot_out (s : State) (m : SlotIx) (x : Slot) : (s.setSlot m x).out = s.out := withSlots_out ..
@[simp] theorem setSlot_emitData (s : State) (m : SlotIx) (x : Slot) : (s.setSlot m x).emitData = s.emitData := withSlots_emitData ..
@[simp] theorem setSlot_argLo (s : State) (m : SlotIx) (x : Slot) : (s.setSlot m x).argLo = s.argLo := withSlots_argLo ..
@[simp] theorem setSlot_argHi (s : State) (m : SlotIx) (x : Slot) : (s.setSlot m x).argHi = s.argHi := withSlots_argHi ..
@[simp] theorem setSlot_sleepCnt (s : State) (m : SlotIx) (x : Slot) : (s.setSlot m x).sleepCnt = s.sleepCnt := withSlots_sleepCnt ..
@[simp] theorem setSlot_sleepLen (s : State) (m : SlotIx) (x : Slot) : (s.setSlot m x).sleepLen = s.sleepLen := withSlots_sleepLen ..
@[simp] theorem setSlot_rr (s : State) (m : SlotIx) (x : Slot) : (s.setSlot m x).rr = s.rr := withSlots_rr ..
@[simp] theorem setSlot_emot (s : State) (m : SlotIx) (x : Slot) : (s.setSlot m x).emot = s.emot := withSlots_emot ..
@[simp] theorem setSlot_snap (s : State) (m : SlotIx) (x : Slot) : (s.setSlot m x).snap = s.snap := withSlots_snap ..
@[simp] theorem setSlot_pins (s : State) (m : SlotIx) (x : Slot) : (s.setSlot m x).pins = s.pins := withSlots_pins ..
@[simp] theorem setSlot_host (s : State) (m : SlotIx) (x : Slot) : (s.setSlot m x).host = s.host := withSlots_host ..
@[simp] theorem setSlot_latchKnown (s : State) (m : SlotIx) (x : Slot) : (s.setSlot m x).latchKnown = s.latchKnown := withSlots_latchKnown ..
@[simp] theorem setSlot_edge (s : State) (m : SlotIx) (x : Slot) : (s.setSlot m x).edge = s.edge := withSlots_edge ..

/-! ## mapSlots -/

@[simp] theorem mapSlots_cfg (s : State) (f : SlotIx → Slot → Slot) : (s.mapSlots f).cfg = s.cfg := withSlots_cfg ..
@[simp] theorem mapSlots_mode (s : State) (f : SlotIx → Slot → Slot) : (s.mapSlots f).mode = s.mode := withSlots_mode ..
@[simp] theorem mapSlots_ieDone (s : State) (f : SlotIx → Slot → Slot) : (s.mapSlots f).ieDone = s.ieDone := withSlots_ieDone ..
@[simp] theorem mapSlots_ieErr (s : State) (f : SlotIx → Slot → Slot) : (s.mapSlots f).ieErr = s.ieErr := withSlots_ieErr ..
@[simp] theorem mapSlots_done (s : State) (f : SlotIx → Slot → Slot) : (s.mapSlots f).done = s.done := withSlots_done ..
@[simp] theorem mapSlots_cfgErr (s : State) (f : SlotIx → Slot → Slot) : (s.mapSlots f).cfgErr = s.cfgErr := withSlots_cfgErr ..
@[simp] theorem mapSlots_ioErr (s : State) (f : SlotIx → Slot → Slot) : (s.mapSlots f).ioErr = s.ioErr := withSlots_ioErr ..
@[simp] theorem mapSlots_runMode (s : State) (f : SlotIx → Slot → Slot) : (s.mapSlots f).runMode = s.runMode := withSlots_runMode ..
@[simp] theorem mapSlots_fsm (s : State) (f : SlotIx → Slot → Slot) : (s.mapSlots f).fsm = s.fsm := withSlots_fsm ..
@[simp] theorem mapSlots_errCode (s : State) (f : SlotIx → Slot → Slot) : (s.mapSlots f).errCode = s.errCode := withSlots_errCode ..
@[simp] theorem mapSlots_errMotor (s : State) (f : SlotIx → Slot → Slot) : (s.mapSlots f).errMotor = s.errMotor := withSlots_errMotor ..
@[simp] theorem mapSlots_out (s : State) (f : SlotIx → Slot → Slot) : (s.mapSlots f).out = s.out := withSlots_out ..
@[simp] theorem mapSlots_emitData (s : State) (f : SlotIx → Slot → Slot) : (s.mapSlots f).emitData = s.emitData := withSlots_emitData ..
@[simp] theorem mapSlots_argLo (s : State) (f : SlotIx → Slot → Slot) : (s.mapSlots f).argLo = s.argLo := withSlots_argLo ..
@[simp] theorem mapSlots_argHi (s : State) (f : SlotIx → Slot → Slot) : (s.mapSlots f).argHi = s.argHi := withSlots_argHi ..
@[simp] theorem mapSlots_sleepCnt (s : State) (f : SlotIx → Slot → Slot) : (s.mapSlots f).sleepCnt = s.sleepCnt := withSlots_sleepCnt ..
@[simp] theorem mapSlots_sleepLen (s : State) (f : SlotIx → Slot → Slot) : (s.mapSlots f).sleepLen = s.sleepLen := withSlots_sleepLen ..
@[simp] theorem mapSlots_rr (s : State) (f : SlotIx → Slot → Slot) : (s.mapSlots f).rr = s.rr := withSlots_rr ..
@[simp] theorem mapSlots_emot (s : State) (f : SlotIx → Slot → Slot) : (s.mapSlots f).emot = s.emot := withSlots_emot ..
@[simp] theorem mapSlots_snap (s : State) (f : SlotIx → Slot → Slot) : (s.mapSlots f).snap = s.snap := withSlots_snap ..
@[simp] theorem mapSlots_pins (s : State) (f : SlotIx → Slot → Slot) : (s.mapSlots f).pins = s.pins := withSlots_pins ..
@[simp] theorem mapSlots_host (s : State) (f : SlotIx → Slot → Slot) : (s.mapSlots f).host = s.host := withSlots_host ..
@[simp] theorem mapSlots_latchKnown (s : State) (f : SlotIx → Slot → Slot) : (s.mapSlots f).latchKnown = s.latchKnown := withSlots_latchKnown ..
@[simp] theorem mapSlots_edge (s : State) (f : SlotIx → Slot → Slot) : (s.mapSlots f).edge = s.edge := withSlots_edge ..

/-! ## startEmit -/

@[simp] theorem startEmit_cfg (s : State) (v : Word) (m : SlotIx) : (startEmit v m s).cfg = s.cfg := rfl
@[simp] theorem startEmit_mode (s : State) (v : Word) (m : SlotIx) : (startEmit v m s).mode = s.mode := rfl
@[simp] theorem startEmit_ieDone (s : State) (v : Word) (m : SlotIx) : (startEmit v m s).ieDone = s.ieDone := rfl
@[simp] theorem startEmit_ieErr (s : State) (v : Word) (m : SlotIx) : (startEmit v m s).ieErr = s.ieErr := rfl
@[simp] theorem startEmit_done (s : State) (v : Word) (m : SlotIx) : (startEmit v m s).done = s.done := rfl
@[simp] theorem startEmit_cfgErr (s : State) (v : Word) (m : SlotIx) : (startEmit v m s).cfgErr = s.cfgErr := rfl
@[simp] theorem startEmit_ioErr (s : State) (v : Word) (m : SlotIx) : (startEmit v m s).ioErr = s.ioErr := rfl
@[simp] theorem startEmit_runMode (s : State) (v : Word) (m : SlotIx) : (startEmit v m s).runMode = s.runMode := rfl
@[simp] theorem startEmit_fsm (s : State) (v : Word) (m : SlotIx) : (startEmit v m s).fsm = s.fsm := rfl
@[simp] theorem startEmit_errCode (s : State) (v : Word) (m : SlotIx) : (startEmit v m s).errCode = s.errCode := rfl
@[simp] theorem startEmit_errMotor (s : State) (v : Word) (m : SlotIx) : (startEmit v m s).errMotor = s.errMotor := rfl
@[simp] theorem startEmit_out (s : State) (v : Word) (m : SlotIx) : (startEmit v m s).out = s.out := rfl
@[simp] theorem startEmit_emitData (s : State) (v : Word) (m : SlotIx) : (startEmit v m s).emitData = v := rfl
@[simp] theorem startEmit_argLo (s : State) (v : Word) (m : SlotIx) : (startEmit v m s).argLo = s.argLo := rfl
@[simp] theorem startEmit_argHi (s : State) (v : Word) (m : SlotIx) : (startEmit v m s).argHi = s.argHi := rfl
@[simp] theorem startEmit_sleepCnt (s : State) (v : Word) (m : SlotIx) : (startEmit v m s).sleepCnt = s.sleepCnt := rfl
@[simp] theorem startEmit_sleepLen (s : State) (v : Word) (m : SlotIx) : (startEmit v m s).sleepLen = s.sleepLen := rfl
@[simp] theorem startEmit_rr (s : State) (v : Word) (m : SlotIx) : (startEmit v m s).rr = s.rr := rfl
@[simp] theorem startEmit_emot (s : State) (v : Word) (m : SlotIx) : (startEmit v m s).emot = m := rfl
@[simp] theorem startEmit_snap (s : State) (v : Word) (m : SlotIx) : (startEmit v m s).snap = s.snap := rfl
@[simp] theorem startEmit_slots (s : State) (v : Word) (m : SlotIx) : (startEmit v m s).slots = s.slots := rfl
@[simp] theorem startEmit_pins (s : State) (v : Word) (m : SlotIx) : (startEmit v m s).pins = s.pins := rfl
@[simp] theorem startEmit_host (s : State) (v : Word) (m : SlotIx) : (startEmit v m s).host = s.host := rfl
@[simp] theorem startEmit_latchKnown (s : State) (v : Word) (m : SlotIx) : (startEmit v m s).latchKnown = s.latchKnown := rfl
@[simp] theorem startEmit_edge (s : State) (v : Word) (m : SlotIx) : (startEmit v m s).edge = s.edge := rfl

/-! ## ackEmit -/

@[simp] theorem ackEmit_cfg (s : State) : (ackEmit s).cfg = s.cfg := rfl
@[simp] theorem ackEmit_mode (s : State) : (ackEmit s).mode = s.mode := rfl
@[simp] theorem ackEmit_ieDone (s : State) : (ackEmit s).ieDone = s.ieDone := rfl
@[simp] theorem ackEmit_ieErr (s : State) : (ackEmit s).ieErr = s.ieErr := rfl
@[simp] theorem ackEmit_done (s : State) : (ackEmit s).done = s.done := rfl
@[simp] theorem ackEmit_cfgErr (s : State) : (ackEmit s).cfgErr = s.cfgErr := rfl
@[simp] theorem ackEmit_ioErr (s : State) : (ackEmit s).ioErr = s.ioErr := rfl
@[simp] theorem ackEmit_runMode (s : State) : (ackEmit s).runMode = s.runMode := rfl
@[simp] theorem ackEmit_fsm (s : State) : (ackEmit s).fsm = s.fsm := rfl
@[simp] theorem ackEmit_errCode (s : State) : (ackEmit s).errCode = s.errCode := rfl
@[simp] theorem ackEmit_errMotor (s : State) : (ackEmit s).errMotor = s.errMotor := rfl
@[simp] theorem ackEmit_out (s : State) : (ackEmit s).out = s.emitData := rfl
@[simp] theorem ackEmit_emitData (s : State) : (ackEmit s).emitData = s.emitData := rfl
@[simp] theorem ackEmit_argLo (s : State) : (ackEmit s).argLo = s.argLo := rfl
@[simp] theorem ackEmit_argHi (s : State) : (ackEmit s).argHi = s.argHi := rfl
@[simp] theorem ackEmit_sleepCnt (s : State) : (ackEmit s).sleepCnt = s.sleepCnt := rfl
@[simp] theorem ackEmit_sleepLen (s : State) : (ackEmit s).sleepLen = s.sleepLen := rfl
@[simp] theorem ackEmit_rr (s : State) : (ackEmit s).rr = s.rr := rfl
@[simp] theorem ackEmit_emot (s : State) : (ackEmit s).emot = s.emot := rfl
@[simp] theorem ackEmit_snap (s : State) : (ackEmit s).snap = s.snap := rfl
@[simp] theorem ackEmit_slots (s : State) : (ackEmit s).slots = s.slots := rfl
@[simp] theorem ackEmit_pins (s : State) : (ackEmit s).pins = s.pins := rfl
@[simp] theorem ackEmit_host (s : State) : (ackEmit s).host = s.host := rfl
@[simp] theorem ackEmit_latchKnown (s : State) : (ackEmit s).latchKnown = true := rfl
@[simp] theorem ackEmit_edge (s : State) : (ackEmit s).edge = s.edge := rfl

/-! ## writeStatus -/

@[simp] theorem writeStatus_cfg (s : State) (v : Word) : (writeStatus v s).cfg = s.cfg := rfl
@[simp] theorem writeStatus_mode (s : State) (v : Word) : (writeStatus v s).mode = s.mode := rfl
@[simp] theorem writeStatus_ieDone (s : State) (v : Word) : (writeStatus v s).ieDone = s.ieDone := rfl
@[simp] theorem writeStatus_ieErr (s : State) (v : Word) : (writeStatus v s).ieErr = s.ieErr := rfl
@[simp] theorem writeStatus_done (s : State) (v : Word) : (writeStatus v s).done = (s.done && !v.getLsbD 2) := rfl
@[simp] theorem writeStatus_cfgErr (s : State) (v : Word) : (writeStatus v s).cfgErr = (s.cfgErr && !v.getLsbD 3) := rfl
@[simp] theorem writeStatus_ioErr (s : State) (v : Word) : (writeStatus v s).ioErr = (s.ioErr && !v.getLsbD 4) := rfl
@[simp] theorem writeStatus_runMode (s : State) (v : Word) : (writeStatus v s).runMode = s.runMode := rfl
@[simp] theorem writeStatus_fsm (s : State) (v : Word) : (writeStatus v s).fsm = s.fsm := rfl
@[simp] theorem writeStatus_errCode (s : State) (v : Word) : (writeStatus v s).errCode = s.errCode := rfl
@[simp] theorem writeStatus_errMotor (s : State) (v : Word) : (writeStatus v s).errMotor = s.errMotor := rfl
@[simp] theorem writeStatus_out (s : State) (v : Word) : (writeStatus v s).out = s.out := rfl
@[simp] theorem writeStatus_emitData (s : State) (v : Word) : (writeStatus v s).emitData = s.emitData := rfl
@[simp] theorem writeStatus_argLo (s : State) (v : Word) : (writeStatus v s).argLo = s.argLo := rfl
@[simp] theorem writeStatus_argHi (s : State) (v : Word) : (writeStatus v s).argHi = s.argHi := rfl
@[simp] theorem writeStatus_sleepCnt (s : State) (v : Word) : (writeStatus v s).sleepCnt = s.sleepCnt := rfl
@[simp] theorem writeStatus_sleepLen (s : State) (v : Word) : (writeStatus v s).sleepLen = s.sleepLen := rfl
@[simp] theorem writeStatus_rr (s : State) (v : Word) : (writeStatus v s).rr = s.rr := rfl
@[simp] theorem writeStatus_emot (s : State) (v : Word) : (writeStatus v s).emot = s.emot := rfl
@[simp] theorem writeStatus_snap (s : State) (v : Word) : (writeStatus v s).snap = s.snap := rfl
@[simp] theorem writeStatus_slots (s : State) (v : Word) : (writeStatus v s).slots = s.slots := rfl
@[simp] theorem writeStatus_pins (s : State) (v : Word) : (writeStatus v s).pins = s.pins := rfl
@[simp] theorem writeStatus_host (s : State) (v : Word) : (writeStatus v s).host = s.host := rfl
@[simp] theorem writeStatus_latchKnown (s : State) (v : Word) : (writeStatus v s).latchKnown = s.latchKnown := rfl
@[simp] theorem writeStatus_edge (s : State) (v : Word) : (writeStatus v s).edge = s.edge := rfl

/-! ## writeCtrl -/

@[simp] theorem writeCtrl_cfg (s : State) (v : Word) : (writeCtrl v s).cfg = s.cfg := rfl
@[simp] theorem writeCtrl_mode (s : State) (v : Word) : (writeCtrl v s).mode = if s.busy then s.mode else Discipline.ofBit (v.getLsbD 0) := rfl
@[simp] theorem writeCtrl_ieDone (s : State) (v : Word) : (writeCtrl v s).ieDone = v.getLsbD 8 := rfl
@[simp] theorem writeCtrl_ieErr (s : State) (v : Word) : (writeCtrl v s).ieErr = v.getLsbD 9 := rfl
@[simp] theorem writeCtrl_done (s : State) (v : Word) : (writeCtrl v s).done = s.done := rfl
@[simp] theorem writeCtrl_cfgErr (s : State) (v : Word) : (writeCtrl v s).cfgErr = s.cfgErr := rfl
@[simp] theorem writeCtrl_ioErr (s : State) (v : Word) : (writeCtrl v s).ioErr = s.ioErr := rfl
@[simp] theorem writeCtrl_runMode (s : State) (v : Word) : (writeCtrl v s).runMode = s.runMode := rfl
@[simp] theorem writeCtrl_fsm (s : State) (v : Word) : (writeCtrl v s).fsm = s.fsm := rfl
@[simp] theorem writeCtrl_errCode (s : State) (v : Word) : (writeCtrl v s).errCode = s.errCode := rfl
@[simp] theorem writeCtrl_errMotor (s : State) (v : Word) : (writeCtrl v s).errMotor = s.errMotor := rfl
@[simp] theorem writeCtrl_out (s : State) (v : Word) : (writeCtrl v s).out = s.out := rfl
@[simp] theorem writeCtrl_emitData (s : State) (v : Word) : (writeCtrl v s).emitData = s.emitData := rfl
@[simp] theorem writeCtrl_argLo (s : State) (v : Word) : (writeCtrl v s).argLo = s.argLo := rfl
@[simp] theorem writeCtrl_argHi (s : State) (v : Word) : (writeCtrl v s).argHi = s.argHi := rfl
@[simp] theorem writeCtrl_sleepCnt (s : State) (v : Word) : (writeCtrl v s).sleepCnt = s.sleepCnt := rfl
@[simp] theorem writeCtrl_sleepLen (s : State) (v : Word) : (writeCtrl v s).sleepLen = s.sleepLen := rfl
@[simp] theorem writeCtrl_rr (s : State) (v : Word) : (writeCtrl v s).rr = s.rr := rfl
@[simp] theorem writeCtrl_emot (s : State) (v : Word) : (writeCtrl v s).emot = s.emot := rfl
@[simp] theorem writeCtrl_snap (s : State) (v : Word) : (writeCtrl v s).snap = s.snap := rfl
@[simp] theorem writeCtrl_slots (s : State) (v : Word) : (writeCtrl v s).slots = s.slots := rfl
@[simp] theorem writeCtrl_pins (s : State) (v : Word) : (writeCtrl v s).pins = s.pins := rfl
@[simp] theorem writeCtrl_host (s : State) (v : Word) : (writeCtrl v s).host = s.host := rfl
@[simp] theorem writeCtrl_latchKnown (s : State) (v : Word) : (writeCtrl v s).latchKnown = s.latchKnown := rfl
@[simp] theorem writeCtrl_edge (s : State) (v : Word) : (writeCtrl v s).edge = s.edge := rfl

/-! ## restWorkers -/

@[simp] theorem restWorkers_cfg (s : State) : (restWorkers s).cfg = s.cfg := mapSlots_cfg ..
@[simp] theorem restWorkers_mode (s : State) : (restWorkers s).mode = s.mode := mapSlots_mode ..
@[simp] theorem restWorkers_ieDone (s : State) : (restWorkers s).ieDone = s.ieDone := mapSlots_ieDone ..
@[simp] theorem restWorkers_ieErr (s : State) : (restWorkers s).ieErr = s.ieErr := mapSlots_ieErr ..
@[simp] theorem restWorkers_done (s : State) : (restWorkers s).done = s.done := mapSlots_done ..
@[simp] theorem restWorkers_cfgErr (s : State) : (restWorkers s).cfgErr = s.cfgErr := mapSlots_cfgErr ..
@[simp] theorem restWorkers_ioErr (s : State) : (restWorkers s).ioErr = s.ioErr := mapSlots_ioErr ..
@[simp] theorem restWorkers_runMode (s : State) : (restWorkers s).runMode = s.runMode := mapSlots_runMode ..
@[simp] theorem restWorkers_fsm (s : State) : (restWorkers s).fsm = s.fsm := mapSlots_fsm ..
@[simp] theorem restWorkers_errCode (s : State) : (restWorkers s).errCode = s.errCode := mapSlots_errCode ..
@[simp] theorem restWorkers_errMotor (s : State) : (restWorkers s).errMotor = s.errMotor := mapSlots_errMotor ..
@[simp] theorem restWorkers_out (s : State) : (restWorkers s).out = s.out := mapSlots_out ..
@[simp] theorem restWorkers_emitData (s : State) : (restWorkers s).emitData = s.emitData := mapSlots_emitData ..
@[simp] theorem restWorkers_argLo (s : State) : (restWorkers s).argLo = s.argLo := mapSlots_argLo ..
@[simp] theorem restWorkers_argHi (s : State) : (restWorkers s).argHi = s.argHi := mapSlots_argHi ..
@[simp] theorem restWorkers_sleepCnt (s : State) : (restWorkers s).sleepCnt = s.sleepCnt := mapSlots_sleepCnt ..
@[simp] theorem restWorkers_sleepLen (s : State) : (restWorkers s).sleepLen = s.sleepLen := mapSlots_sleepLen ..
@[simp] theorem restWorkers_rr (s : State) : (restWorkers s).rr = s.rr := mapSlots_rr ..
@[simp] theorem restWorkers_emot (s : State) : (restWorkers s).emot = s.emot := mapSlots_emot ..
@[simp] theorem restWorkers_snap (s : State) : (restWorkers s).snap = s.snap := mapSlots_snap ..
@[simp] theorem restWorkers_pins (s : State) : (restWorkers s).pins = s.pins := mapSlots_pins ..
@[simp] theorem restWorkers_host (s : State) : (restWorkers s).host = s.host := mapSlots_host ..
@[simp] theorem restWorkers_latchKnown (s : State) : (restWorkers s).latchKnown = s.latchKnown := mapSlots_latchKnown ..
@[simp] theorem restWorkers_edge (s : State) : (restWorkers s).edge = s.edge := mapSlots_edge ..

/-! ## clearAdv -/

@[simp] theorem clearAdv_cfg (s : State) : (clearAdv s).cfg = s.cfg := mapSlots_cfg ..
@[simp] theorem clearAdv_mode (s : State) : (clearAdv s).mode = s.mode := mapSlots_mode ..
@[simp] theorem clearAdv_ieDone (s : State) : (clearAdv s).ieDone = s.ieDone := mapSlots_ieDone ..
@[simp] theorem clearAdv_ieErr (s : State) : (clearAdv s).ieErr = s.ieErr := mapSlots_ieErr ..
@[simp] theorem clearAdv_done (s : State) : (clearAdv s).done = s.done := mapSlots_done ..
@[simp] theorem clearAdv_cfgErr (s : State) : (clearAdv s).cfgErr = s.cfgErr := mapSlots_cfgErr ..
@[simp] theorem clearAdv_ioErr (s : State) : (clearAdv s).ioErr = s.ioErr := mapSlots_ioErr ..
@[simp] theorem clearAdv_runMode (s : State) : (clearAdv s).runMode = s.runMode := mapSlots_runMode ..
@[simp] theorem clearAdv_fsm (s : State) : (clearAdv s).fsm = s.fsm := mapSlots_fsm ..
@[simp] theorem clearAdv_errCode (s : State) : (clearAdv s).errCode = s.errCode := mapSlots_errCode ..
@[simp] theorem clearAdv_errMotor (s : State) : (clearAdv s).errMotor = s.errMotor := mapSlots_errMotor ..
@[simp] theorem clearAdv_out (s : State) : (clearAdv s).out = s.out := mapSlots_out ..
@[simp] theorem clearAdv_emitData (s : State) : (clearAdv s).emitData = s.emitData := mapSlots_emitData ..
@[simp] theorem clearAdv_argLo (s : State) : (clearAdv s).argLo = s.argLo := mapSlots_argLo ..
@[simp] theorem clearAdv_argHi (s : State) : (clearAdv s).argHi = s.argHi := mapSlots_argHi ..
@[simp] theorem clearAdv_sleepCnt (s : State) : (clearAdv s).sleepCnt = s.sleepCnt := mapSlots_sleepCnt ..
@[simp] theorem clearAdv_sleepLen (s : State) : (clearAdv s).sleepLen = s.sleepLen := mapSlots_sleepLen ..
@[simp] theorem clearAdv_rr (s : State) : (clearAdv s).rr = s.rr := mapSlots_rr ..
@[simp] theorem clearAdv_emot (s : State) : (clearAdv s).emot = s.emot := mapSlots_emot ..
@[simp] theorem clearAdv_snap (s : State) : (clearAdv s).snap = s.snap := mapSlots_snap ..
@[simp] theorem clearAdv_pins (s : State) : (clearAdv s).pins = s.pins := mapSlots_pins ..
@[simp] theorem clearAdv_host (s : State) : (clearAdv s).host = s.host := mapSlots_host ..
@[simp] theorem clearAdv_latchKnown (s : State) : (clearAdv s).latchKnown = s.latchKnown := mapSlots_latchKnown ..
@[simp] theorem clearAdv_edge (s : State) : (clearAdv s).edge = s.edge := mapSlots_edge ..

/-! ## commitTick -/

@[simp] theorem commitTick_cfg (s : State) : (commitTick s).cfg = s.cfg := mapSlots_cfg ..
@[simp] theorem commitTick_mode (s : State) : (commitTick s).mode = s.mode := mapSlots_mode ..
@[simp] theorem commitTick_ieDone (s : State) : (commitTick s).ieDone = s.ieDone := mapSlots_ieDone ..
@[simp] theorem commitTick_ieErr (s : State) : (commitTick s).ieErr = s.ieErr := mapSlots_ieErr ..
@[simp] theorem commitTick_done (s : State) : (commitTick s).done = s.done := mapSlots_done ..
@[simp] theorem commitTick_cfgErr (s : State) : (commitTick s).cfgErr = s.cfgErr := mapSlots_cfgErr ..
@[simp] theorem commitTick_ioErr (s : State) : (commitTick s).ioErr = s.ioErr := mapSlots_ioErr ..
@[simp] theorem commitTick_runMode (s : State) : (commitTick s).runMode = s.runMode := mapSlots_runMode ..
@[simp] theorem commitTick_fsm (s : State) : (commitTick s).fsm = s.fsm := mapSlots_fsm ..
@[simp] theorem commitTick_errCode (s : State) : (commitTick s).errCode = s.errCode := mapSlots_errCode ..
@[simp] theorem commitTick_errMotor (s : State) : (commitTick s).errMotor = s.errMotor := mapSlots_errMotor ..
@[simp] theorem commitTick_out (s : State) : (commitTick s).out = s.out := mapSlots_out ..
@[simp] theorem commitTick_emitData (s : State) : (commitTick s).emitData = s.emitData := mapSlots_emitData ..
@[simp] theorem commitTick_argLo (s : State) : (commitTick s).argLo = s.argLo := mapSlots_argLo ..
@[simp] theorem commitTick_argHi (s : State) : (commitTick s).argHi = s.argHi := mapSlots_argHi ..
@[simp] theorem commitTick_sleepCnt (s : State) : (commitTick s).sleepCnt = s.sleepCnt := mapSlots_sleepCnt ..
@[simp] theorem commitTick_sleepLen (s : State) : (commitTick s).sleepLen = s.sleepLen := mapSlots_sleepLen ..
@[simp] theorem commitTick_rr (s : State) : (commitTick s).rr = s.rr := mapSlots_rr ..
@[simp] theorem commitTick_emot (s : State) : (commitTick s).emot = s.emot := mapSlots_emot ..
@[simp] theorem commitTick_snap (s : State) : (commitTick s).snap = s.snap := mapSlots_snap ..
@[simp] theorem commitTick_pins (s : State) : (commitTick s).pins = s.pins := mapSlots_pins ..
@[simp] theorem commitTick_host (s : State) : (commitTick s).host = s.host := mapSlots_host ..
@[simp] theorem commitTick_latchKnown (s : State) : (commitTick s).latchKnown = s.latchKnown := mapSlots_latchKnown ..
@[simp] theorem commitTick_edge (s : State) : (commitTick s).edge = s.edge := mapSlots_edge ..

/-! ## workersStep -/

@[simp] theorem workersStep_cfg (s0 s : State) (ack : Bool) (g : Option SlotIx) : (workersStep s0 ack g s).cfg = s.cfg := mapSlots_cfg ..
@[simp] theorem workersStep_mode (s0 s : State) (ack : Bool) (g : Option SlotIx) : (workersStep s0 ack g s).mode = s.mode := mapSlots_mode ..
@[simp] theorem workersStep_ieDone (s0 s : State) (ack : Bool) (g : Option SlotIx) : (workersStep s0 ack g s).ieDone = s.ieDone := mapSlots_ieDone ..
@[simp] theorem workersStep_ieErr (s0 s : State) (ack : Bool) (g : Option SlotIx) : (workersStep s0 ack g s).ieErr = s.ieErr := mapSlots_ieErr ..
@[simp] theorem workersStep_done (s0 s : State) (ack : Bool) (g : Option SlotIx) : (workersStep s0 ack g s).done = s.done := mapSlots_done ..
@[simp] theorem workersStep_cfgErr (s0 s : State) (ack : Bool) (g : Option SlotIx) : (workersStep s0 ack g s).cfgErr = s.cfgErr := mapSlots_cfgErr ..
@[simp] theorem workersStep_ioErr (s0 s : State) (ack : Bool) (g : Option SlotIx) : (workersStep s0 ack g s).ioErr = s.ioErr := mapSlots_ioErr ..
@[simp] theorem workersStep_runMode (s0 s : State) (ack : Bool) (g : Option SlotIx) : (workersStep s0 ack g s).runMode = s.runMode := mapSlots_runMode ..
@[simp] theorem workersStep_fsm (s0 s : State) (ack : Bool) (g : Option SlotIx) : (workersStep s0 ack g s).fsm = s.fsm := mapSlots_fsm ..
@[simp] theorem workersStep_errCode (s0 s : State) (ack : Bool) (g : Option SlotIx) : (workersStep s0 ack g s).errCode = s.errCode := mapSlots_errCode ..
@[simp] theorem workersStep_errMotor (s0 s : State) (ack : Bool) (g : Option SlotIx) : (workersStep s0 ack g s).errMotor = s.errMotor := mapSlots_errMotor ..
@[simp] theorem workersStep_out (s0 s : State) (ack : Bool) (g : Option SlotIx) : (workersStep s0 ack g s).out = s.out := mapSlots_out ..
@[simp] theorem workersStep_emitData (s0 s : State) (ack : Bool) (g : Option SlotIx) : (workersStep s0 ack g s).emitData = s.emitData := mapSlots_emitData ..
@[simp] theorem workersStep_argLo (s0 s : State) (ack : Bool) (g : Option SlotIx) : (workersStep s0 ack g s).argLo = s.argLo := mapSlots_argLo ..
@[simp] theorem workersStep_argHi (s0 s : State) (ack : Bool) (g : Option SlotIx) : (workersStep s0 ack g s).argHi = s.argHi := mapSlots_argHi ..
@[simp] theorem workersStep_sleepCnt (s0 s : State) (ack : Bool) (g : Option SlotIx) : (workersStep s0 ack g s).sleepCnt = s.sleepCnt := mapSlots_sleepCnt ..
@[simp] theorem workersStep_sleepLen (s0 s : State) (ack : Bool) (g : Option SlotIx) : (workersStep s0 ack g s).sleepLen = s.sleepLen := mapSlots_sleepLen ..
@[simp] theorem workersStep_rr (s0 s : State) (ack : Bool) (g : Option SlotIx) : (workersStep s0 ack g s).rr = s.rr := mapSlots_rr ..
@[simp] theorem workersStep_emot (s0 s : State) (ack : Bool) (g : Option SlotIx) : (workersStep s0 ack g s).emot = s.emot := mapSlots_emot ..
@[simp] theorem workersStep_snap (s0 s : State) (ack : Bool) (g : Option SlotIx) : (workersStep s0 ack g s).snap = s.snap := mapSlots_snap ..
@[simp] theorem workersStep_pins (s0 s : State) (ack : Bool) (g : Option SlotIx) : (workersStep s0 ack g s).pins = s.pins := mapSlots_pins ..
@[simp] theorem workersStep_host (s0 s : State) (ack : Bool) (g : Option SlotIx) : (workersStep s0 ack g s).host = s.host := mapSlots_host ..
@[simp] theorem workersStep_latchKnown (s0 s : State) (ack : Bool) (g : Option SlotIx) : (workersStep s0 ack g s).latchKnown = s.latchKnown := mapSlots_latchKnown ..
@[simp] theorem workersStep_edge (s0 s : State) (ack : Bool) (g : Option SlotIx) : (workersStep s0 ack g s).edge = s.edge := mapSlots_edge ..

/-! ## advance -/

@[simp] theorem advance_cfg (s0 s : State) : (advance s0 s).cfg = s.cfg := rfl
@[simp] theorem advance_mode (s0 s : State) : (advance s0 s).mode = s.mode := rfl
@[simp] theorem advance_ieDone (s0 s : State) : (advance s0 s).ieDone = s.ieDone := rfl
@[simp] theorem advance_ieErr (s0 s : State) : (advance s0 s).ieErr = s.ieErr := rfl
@[simp] theorem advance_done (s0 s : State) : (advance s0 s).done = s.done := rfl
@[simp] theorem advance_cfgErr (s0 s : State) : (advance s0 s).cfgErr = s.cfgErr := rfl
@[simp] theorem advance_ioErr (s0 s : State) : (advance s0 s).ioErr = s.ioErr := rfl
@[simp] theorem advance_runMode (s0 s : State) : (advance s0 s).runMode = s.runMode := rfl
@[simp] theorem advance_fsm (s0 s : State) : (advance s0 s).fsm = s.fsm := rfl
@[simp] theorem advance_errCode (s0 s : State) : (advance s0 s).errCode = s.errCode := rfl
@[simp] theorem advance_errMotor (s0 s : State) : (advance s0 s).errMotor = s.errMotor := rfl
@[simp] theorem advance_out (s0 s : State) : (advance s0 s).out = s.out := rfl
@[simp] theorem advance_emitData (s0 s : State) : (advance s0 s).emitData = s.emitData := rfl
@[simp] theorem advance_argLo (s0 s : State) : (advance s0 s).argLo = s.argLo := rfl
@[simp] theorem advance_argHi (s0 s : State) : (advance s0 s).argHi = s.argHi := rfl
@[simp] theorem advance_sleepCnt (s0 s : State) : (advance s0 s).sleepCnt = s.sleepCnt := rfl
@[simp] theorem advance_sleepLen (s0 s : State) : (advance s0 s).sleepLen = s.sleepLen := rfl
@[simp] theorem advance_rr (s0 s : State) : (advance s0 s).rr = s.rr := rfl
@[simp] theorem advance_emot (s0 s : State) : (advance s0 s).emot = s.emot := rfl
@[simp] theorem advance_snap (s0 s : State) : (advance s0 s).snap = s.snap := rfl
@[simp] theorem advance_slots (s0 s : State) : (advance s0 s).slots = s.slots := rfl
@[simp] theorem advance_pins (s0 s : State) : (advance s0 s).pins = s0.pins.tail := rfl
@[simp] theorem advance_host (s0 s : State) : (advance s0 s).host = s0.hostAfter := rfl
@[simp] theorem advance_latchKnown (s0 s : State) : (advance s0 s).latchKnown = s.latchKnown := rfl
@[simp] theorem advance_edge (s0 s : State) : (advance s0 s).edge = s0.edge + 1 := rfl

/-! ## recordFirstError -/

@[simp] theorem recordFirstError_cfg (s : State) (code : ErrCode) (k : SlotIx) : (recordFirstError code k s).cfg = s.cfg := rfl
@[simp] theorem recordFirstError_mode (s : State) (code : ErrCode) (k : SlotIx) : (recordFirstError code k s).mode = s.mode := rfl
@[simp] theorem recordFirstError_ieDone (s : State) (code : ErrCode) (k : SlotIx) : (recordFirstError code k s).ieDone = s.ieDone := rfl
@[simp] theorem recordFirstError_ieErr (s : State) (code : ErrCode) (k : SlotIx) : (recordFirstError code k s).ieErr = s.ieErr := rfl
@[simp] theorem recordFirstError_done (s : State) (code : ErrCode) (k : SlotIx) : (recordFirstError code k s).done = s.done := rfl
@[simp] theorem recordFirstError_cfgErr (s : State) (code : ErrCode) (k : SlotIx) : (recordFirstError code k s).cfgErr = s.cfgErr := rfl
@[simp] theorem recordFirstError_ioErr (s : State) (code : ErrCode) (k : SlotIx) : (recordFirstError code k s).ioErr = s.ioErr := rfl
@[simp] theorem recordFirstError_runMode (s : State) (code : ErrCode) (k : SlotIx) : (recordFirstError code k s).runMode = s.runMode := rfl
@[simp] theorem recordFirstError_fsm (s : State) (code : ErrCode) (k : SlotIx) : (recordFirstError code k s).fsm = s.fsm := rfl
@[simp] theorem recordFirstError_errCode (s : State) (code : ErrCode) (k : SlotIx) : (recordFirstError code k s).errCode = bif s.cfgErr || s.ioErr then s.errCode else code := rfl
@[simp] theorem recordFirstError_errMotor (s : State) (code : ErrCode) (k : SlotIx) : (recordFirstError code k s).errMotor = bif s.cfgErr || s.ioErr then s.errMotor else k := rfl
@[simp] theorem recordFirstError_out (s : State) (code : ErrCode) (k : SlotIx) : (recordFirstError code k s).out = s.out := rfl
@[simp] theorem recordFirstError_emitData (s : State) (code : ErrCode) (k : SlotIx) : (recordFirstError code k s).emitData = s.emitData := rfl
@[simp] theorem recordFirstError_argLo (s : State) (code : ErrCode) (k : SlotIx) : (recordFirstError code k s).argLo = s.argLo := rfl
@[simp] theorem recordFirstError_argHi (s : State) (code : ErrCode) (k : SlotIx) : (recordFirstError code k s).argHi = s.argHi := rfl
@[simp] theorem recordFirstError_sleepCnt (s : State) (code : ErrCode) (k : SlotIx) : (recordFirstError code k s).sleepCnt = s.sleepCnt := rfl
@[simp] theorem recordFirstError_sleepLen (s : State) (code : ErrCode) (k : SlotIx) : (recordFirstError code k s).sleepLen = s.sleepLen := rfl
@[simp] theorem recordFirstError_rr (s : State) (code : ErrCode) (k : SlotIx) : (recordFirstError code k s).rr = s.rr := rfl
@[simp] theorem recordFirstError_emot (s : State) (code : ErrCode) (k : SlotIx) : (recordFirstError code k s).emot = s.emot := rfl
@[simp] theorem recordFirstError_snap (s : State) (code : ErrCode) (k : SlotIx) : (recordFirstError code k s).snap = s.snap := rfl
@[simp] theorem recordFirstError_slots (s : State) (code : ErrCode) (k : SlotIx) : (recordFirstError code k s).slots = s.slots := rfl
@[simp] theorem recordFirstError_pins (s : State) (code : ErrCode) (k : SlotIx) : (recordFirstError code k s).pins = s.pins := rfl
@[simp] theorem recordFirstError_host (s : State) (code : ErrCode) (k : SlotIx) : (recordFirstError code k s).host = s.host := rfl
@[simp] theorem recordFirstError_latchKnown (s : State) (code : ErrCode) (k : SlotIx) : (recordFirstError code k s).latchKnown = s.latchKnown := rfl
@[simp] theorem recordFirstError_edge (s : State) (code : ErrCode) (k : SlotIx) : (recordFirstError code k s).edge = s.edge := rfl

/-! ## raiseConfigurationError -/

@[simp] theorem raiseConfigurationError_cfg (s : State) (code : ErrCode) (k : SlotIx) : (raiseConfigurationError code k s).cfg = s.cfg := rfl
@[simp] theorem raiseConfigurationError_mode (s : State) (code : ErrCode) (k : SlotIx) : (raiseConfigurationError code k s).mode = s.mode := rfl
@[simp] theorem raiseConfigurationError_ieDone (s : State) (code : ErrCode) (k : SlotIx) : (raiseConfigurationError code k s).ieDone = s.ieDone := rfl
@[simp] theorem raiseConfigurationError_ieErr (s : State) (code : ErrCode) (k : SlotIx) : (raiseConfigurationError code k s).ieErr = s.ieErr := rfl
@[simp] theorem raiseConfigurationError_done (s : State) (code : ErrCode) (k : SlotIx) : (raiseConfigurationError code k s).done = s.done := rfl
@[simp] theorem raiseConfigurationError_cfgErr (s : State) (code : ErrCode) (k : SlotIx) : (raiseConfigurationError code k s).cfgErr = true := rfl
@[simp] theorem raiseConfigurationError_ioErr (s : State) (code : ErrCode) (k : SlotIx) : (raiseConfigurationError code k s).ioErr = s.ioErr := rfl
@[simp] theorem raiseConfigurationError_runMode (s : State) (code : ErrCode) (k : SlotIx) : (raiseConfigurationError code k s).runMode = s.runMode := rfl
@[simp] theorem raiseConfigurationError_fsm (s : State) (code : ErrCode) (k : SlotIx) : (raiseConfigurationError code k s).fsm = s.fsm := rfl
@[simp] theorem raiseConfigurationError_errCode (s : State) (code : ErrCode) (k : SlotIx) : (raiseConfigurationError code k s).errCode = bif s.cfgErr || s.ioErr then s.errCode else code := rfl
@[simp] theorem raiseConfigurationError_errMotor (s : State) (code : ErrCode) (k : SlotIx) : (raiseConfigurationError code k s).errMotor = bif s.cfgErr || s.ioErr then s.errMotor else k := rfl
@[simp] theorem raiseConfigurationError_out (s : State) (code : ErrCode) (k : SlotIx) : (raiseConfigurationError code k s).out = s.out := rfl
@[simp] theorem raiseConfigurationError_emitData (s : State) (code : ErrCode) (k : SlotIx) : (raiseConfigurationError code k s).emitData = s.emitData := rfl
@[simp] theorem raiseConfigurationError_argLo (s : State) (code : ErrCode) (k : SlotIx) : (raiseConfigurationError code k s).argLo = s.argLo := rfl
@[simp] theorem raiseConfigurationError_argHi (s : State) (code : ErrCode) (k : SlotIx) : (raiseConfigurationError code k s).argHi = s.argHi := rfl
@[simp] theorem raiseConfigurationError_sleepCnt (s : State) (code : ErrCode) (k : SlotIx) : (raiseConfigurationError code k s).sleepCnt = s.sleepCnt := rfl
@[simp] theorem raiseConfigurationError_sleepLen (s : State) (code : ErrCode) (k : SlotIx) : (raiseConfigurationError code k s).sleepLen = s.sleepLen := rfl
@[simp] theorem raiseConfigurationError_rr (s : State) (code : ErrCode) (k : SlotIx) : (raiseConfigurationError code k s).rr = s.rr := rfl
@[simp] theorem raiseConfigurationError_emot (s : State) (code : ErrCode) (k : SlotIx) : (raiseConfigurationError code k s).emot = s.emot := rfl
@[simp] theorem raiseConfigurationError_snap (s : State) (code : ErrCode) (k : SlotIx) : (raiseConfigurationError code k s).snap = s.snap := rfl
@[simp] theorem raiseConfigurationError_slots (s : State) (code : ErrCode) (k : SlotIx) : (raiseConfigurationError code k s).slots = s.slots := rfl
@[simp] theorem raiseConfigurationError_pins (s : State) (code : ErrCode) (k : SlotIx) : (raiseConfigurationError code k s).pins = s.pins := rfl
@[simp] theorem raiseConfigurationError_host (s : State) (code : ErrCode) (k : SlotIx) : (raiseConfigurationError code k s).host = s.host := rfl
@[simp] theorem raiseConfigurationError_latchKnown (s : State) (code : ErrCode) (k : SlotIx) : (raiseConfigurationError code k s).latchKnown = s.latchKnown := rfl
@[simp] theorem raiseConfigurationError_edge (s : State) (code : ErrCode) (k : SlotIx) : (raiseConfigurationError code k s).edge = s.edge := rfl

/-! ## raiseHardwareIOError -/

@[simp] theorem raiseHardwareIOError_cfg (s : State) (k : SlotIx) : (raiseHardwareIOError k s).cfg = s.cfg := rfl
@[simp] theorem raiseHardwareIOError_mode (s : State) (k : SlotIx) : (raiseHardwareIOError k s).mode = s.mode := rfl
@[simp] theorem raiseHardwareIOError_ieDone (s : State) (k : SlotIx) : (raiseHardwareIOError k s).ieDone = s.ieDone := rfl
@[simp] theorem raiseHardwareIOError_ieErr (s : State) (k : SlotIx) : (raiseHardwareIOError k s).ieErr = s.ieErr := rfl
@[simp] theorem raiseHardwareIOError_done (s : State) (k : SlotIx) : (raiseHardwareIOError k s).done = s.done := rfl
@[simp] theorem raiseHardwareIOError_cfgErr (s : State) (k : SlotIx) : (raiseHardwareIOError k s).cfgErr = s.cfgErr := rfl
@[simp] theorem raiseHardwareIOError_ioErr (s : State) (k : SlotIx) : (raiseHardwareIOError k s).ioErr = true := rfl
@[simp] theorem raiseHardwareIOError_runMode (s : State) (k : SlotIx) : (raiseHardwareIOError k s).runMode = s.runMode := rfl
@[simp] theorem raiseHardwareIOError_fsm (s : State) (k : SlotIx) : (raiseHardwareIOError k s).fsm = s.fsm := rfl
@[simp] theorem raiseHardwareIOError_errCode (s : State) (k : SlotIx) : (raiseHardwareIOError k s).errCode = bif s.cfgErr || s.ioErr then s.errCode else ErrCode.ioFail := rfl
@[simp] theorem raiseHardwareIOError_errMotor (s : State) (k : SlotIx) : (raiseHardwareIOError k s).errMotor = bif s.cfgErr || s.ioErr then s.errMotor else k := rfl
@[simp] theorem raiseHardwareIOError_out (s : State) (k : SlotIx) : (raiseHardwareIOError k s).out = s.out := rfl
@[simp] theorem raiseHardwareIOError_emitData (s : State) (k : SlotIx) : (raiseHardwareIOError k s).emitData = s.emitData := rfl
@[simp] theorem raiseHardwareIOError_argLo (s : State) (k : SlotIx) : (raiseHardwareIOError k s).argLo = s.argLo := rfl
@[simp] theorem raiseHardwareIOError_argHi (s : State) (k : SlotIx) : (raiseHardwareIOError k s).argHi = s.argHi := rfl
@[simp] theorem raiseHardwareIOError_sleepCnt (s : State) (k : SlotIx) : (raiseHardwareIOError k s).sleepCnt = s.sleepCnt := rfl
@[simp] theorem raiseHardwareIOError_sleepLen (s : State) (k : SlotIx) : (raiseHardwareIOError k s).sleepLen = s.sleepLen := rfl
@[simp] theorem raiseHardwareIOError_rr (s : State) (k : SlotIx) : (raiseHardwareIOError k s).rr = s.rr := rfl
@[simp] theorem raiseHardwareIOError_emot (s : State) (k : SlotIx) : (raiseHardwareIOError k s).emot = s.emot := rfl
@[simp] theorem raiseHardwareIOError_snap (s : State) (k : SlotIx) : (raiseHardwareIOError k s).snap = s.snap := rfl
@[simp] theorem raiseHardwareIOError_slots (s : State) (k : SlotIx) : (raiseHardwareIOError k s).slots = s.slots := rfl
@[simp] theorem raiseHardwareIOError_pins (s : State) (k : SlotIx) : (raiseHardwareIOError k s).pins = s.pins := rfl
@[simp] theorem raiseHardwareIOError_host (s : State) (k : SlotIx) : (raiseHardwareIOError k s).host = s.host := rfl
@[simp] theorem raiseHardwareIOError_latchKnown (s : State) (k : SlotIx) : (raiseHardwareIOError k s).latchKnown = false := rfl
@[simp] theorem raiseHardwareIOError_edge (s : State) (k : SlotIx) : (raiseHardwareIOError k s).edge = s.edge := rfl

end Sys2Proof.Machine
end

