-- ==== Sys2Proof/Laws/Slots.lean ====
section
/-! SUPPORT. The slot operations: reading a slot after an update of one slot or of all,
  and the functions of a state that
depend on its slots and parameters only. -/

namespace Sys2Proof.Machine

theorem mem_allSlots (m : SlotIx) : m ∈ allSlots := by revert m; decide

theorem allSlots_eq_finRange : allSlots = List.finRange 16 := by decide

theorem nodup_allSlots : allSlots.Nodup := by decide

theorem isSlot_iff (s : State) (m : SlotIx) : s.isSlot m = true ↔ m.val < s.cfg.nMotors := by
  simp [State.isSlot]

theorem isSlot_eq_false_iff (s : State) (m : SlotIx) : s.isSlot m = false ↔ s.cfg.nMotors ≤ m.val := by
  simp [State.isSlot]

/-! ## Reading a slot after an update -/

theorem slot_setSlot (s : State) (m j : SlotIx) (x : Slot) :
    (s.setSlot m x).slot j = if j = m then x else s.slot j := by
  simp only [State.slot, State.setSlot, State.withSlots, Fin.getElem_fin, Vector.getElem_set, Fin.ext_iff, eq_comm]

@[simp] theorem slot_setSlot_self (s : State) (m : SlotIx) (x : Slot) : (s.setSlot m x).slot m = x := by
  simp [slot_setSlot]

theorem slot_setSlot_ne (s : State) {m j : SlotIx} (x : Slot) (h : j ≠ m) : (s.setSlot m x).slot j = s.slot j := by
  simp [slot_setSlot, h]

theorem slot_mapSlots (s : State) (f : SlotIx → Slot → Slot) (m : SlotIx) :
    (s.mapSlots f).slot m = if s.isSlot m then f m (s.slot m) else s.slot m := by
  simp [State.slot, State.mapSlots, State.withSlots]

theorem slot_mapSlots_of_isSlot (s : State) (f : SlotIx → Slot → Slot) {m : SlotIx} (h : s.isSlot m = true) :
    (s.mapSlots f).slot m = f m (s.slot m) := by simp [slot_mapSlots, h]

theorem slot_mapSlots_absent (s : State) (f : SlotIx → Slot → Slot) {m : SlotIx} (h : s.isSlot m = false) :
    (s.mapSlots f).slot m = s.slot m := by simp [slot_mapSlots, h]

theorem slot_restWorkers (s : State) (m : SlotIx) : (restWorkers s).slot m =
    if s.isSlot m then { s.slot m with w := .idle, wcnt := 0 } else s.slot m := slot_mapSlots ..

theorem slot_clearAdv (s : State) (m : SlotIx) : (clearAdv s).slot m =
    if s.isSlot m then { s.slot m with adv := false } else s.slot m := slot_mapSlots ..

theorem slot_commitTick (s : State) (m : SlotIx) : (commitTick s).slot m =
    if s.isSlot m then { (if (s.slot m).adv then (s.slot m).commitStep else s.slot m) with adv := false }
    else s.slot m := slot_mapSlots ..

theorem slot_workersStep (s0 s : State) (ack : Bool) (g : Option SlotIx) (m : SlotIx) :
    (workersStep s0 ack g s).slot m = if s.isSlot m then workerStep s0 ack g m (s.slot m) else s.slot m :=
  slot_mapSlots ..

/-- A slot read depends on the slots alone. -/
theorem slot_congr {s t : State} (h : t.slots = s.slots) (m : SlotIx) : t.slot m = s.slot m := by
  simp only [State.slot, h]

/-- Two states whose slots all agree have the same slots. -/
theorem slots_ext {s t : State} (h : ∀ m, t.slot m = s.slot m) : t.slots = s.slots := by
  apply Vector.ext
  intro i hi
  exact h ⟨i, hi⟩

@[simp] theorem slot_startEmit (s : State) (v : Word) (k m : SlotIx) : (startEmit v k s).slot m = s.slot m :=
  slot_congr (startEmit_slots ..) m

@[simp] theorem slot_ackEmit (s : State) (m : SlotIx) : (ackEmit s).slot m = s.slot m :=
  slot_congr (ackEmit_slots ..) m

@[simp] theorem slot_raiseConfigurationError (s : State) (code : ErrCode) (k m : SlotIx) :
    (raiseConfigurationError code k s).slot m = s.slot m := slot_congr (raiseConfigurationError_slots ..) m

@[simp] theorem slot_raiseHardwareIOError (s : State) (k m : SlotIx) :
    (raiseHardwareIOError k s).slot m = s.slot m := slot_congr (raiseHardwareIOError_slots ..) m

@[simp] theorem slot_advance (s0 s : State) (m : SlotIx) : (advance s0 s).slot m = s.slot m :=
  slot_congr (advance_slots ..) m

theorem slot_grantStep (g : SlotIx) (s : State) (m : SlotIx) : (grantStep g s).slot m =
    if s.isSlot m then workerStep s false (some g) m (s.slot m) else s.slot m := by
  unfold grantStep
  rw [slot_workersStep]
  rfl

theorem slot_issueTick (s : State) (m : SlotIx) : (issueTick s).slot m =
    if s.isSlot m then { s.slot m with adv := s.pending m, advDir := s.pending m && s.toward m } else s.slot m := by
  unfold issueTick
  rw [slot_mapSlots]
  rfl

theorem pending_iff (s : State) (m : SlotIx) :
    s.pending m = true ↔ s.registered m = true ∧ (s.slot m).pos ≠ (s.slot m).tgt := by
  simp [State.pending]

theorem isSlot_of_registered {s : State} {m : SlotIx} (h : s.registered m = true) : s.isSlot m = true := by
  simp [State.registered] at h
  exact h.1

theorem registered_of_pending {s : State} {m : SlotIx} (h : s.pending m = true) : s.registered m = true :=
  ((pending_iff s m).1 h).1

theorem isSlot_of_pending {s : State} {m : SlotIx} (h : s.pending m = true) : s.isSlot m = true :=
  isSlot_of_registered (registered_of_pending h)

theorem anyPending_iff (s : State) : s.anyPending = true ↔ ∃ m, s.pending m = true := by
  simp [State.anyPending, mem_allSlots]

theorem anyPending_eq_false_iff (s : State) : s.anyPending = false ↔ ∀ m, s.pending m = false := by
  simp [State.anyPending, mem_allSlots]

theorem anyWorkerEmitting_iff (s : State) :
    s.anyWorkerEmitting = true ↔ ∃ m, s.isSlot m = true ∧ (s.slot m).w = .emit := by
  simp [State.anyWorkerEmitting, mem_allSlots]

theorem allWorkersIdle_iff (s : State) :
    s.allWorkersIdle = true ↔ ∀ m, s.isSlot m = true → (s.slot m).w = .idle := by
  simp only [State.allWorkersIdle, List.all_eq_true, mem_allSlots, true_implies, Bool.or_eq_true, Bool.not_eq_true',
    decide_eq_true_eq]
  refine forall_congr' fun m => ?_
  cases s.isSlot m <;> simp

/-! ## Functions of the slots and the parameters -/

/-- Two states with the same parameters and the same motors: slots that differ in their workers and step bits at most. -/
structure SameMotors (s t : State) : Prop where
  cfg : t.cfg = s.cfg
  reg : ∀ m, (t.slot m).reg = (s.slot m).reg
  dirInv : ∀ m, (t.slot m).dirInv = (s.slot m).dirInv
  half : ∀ m, (t.slot m).half = (s.slot m).half
  bitOffset : ∀ m, (t.slot m).bitOffset = (s.slot m).bitOffset
  spr : ∀ m, (t.slot m).spr = (s.slot m).spr
  delay : ∀ m, (t.slot m).delay = (s.slot m).delay
  pos : ∀ m, (t.slot m).pos = (s.slot m).pos
  tgt : ∀ m, (t.slot m).tgt = (s.slot m).tgt

namespace SameMotors

variable {s t : State} (h : SameMotors s t)
include h

theorem isSlot (m : SlotIx) : t.isSlot m = s.isSlot m := by simp [State.isSlot, h.cfg]
theorem registered (m : SlotIx) : t.registered m = s.registered m := by simp [State.registered, h.isSlot, h.reg]
theorem pending (m : SlotIx) : t.pending m = s.pending m := by simp [State.pending, h.registered, h.pos, h.tgt]
theorem posOf (m : SlotIx) : t.posOf m = s.posOf m := by simp [State.posOf, h.pos]
theorem tgtOf (m : SlotIx) : t.tgtOf m = s.tgtOf m := by simp [State.tgtOf, h.tgt]
theorem toward (m : SlotIx) : t.toward m = s.toward m := by simp [State.toward, h.posOf, h.tgtOf]
theorem steppedPos (m : SlotIx) : t.steppedPos m = s.steppedPos m := by simp [State.steppedPos, h.toward, h.posOf]
theorem tickPos (m : SlotIx) : t.tickPos m = s.tickPos m := by
  simp [State.tickPos, h.pending, h.steppedPos, h.posOf]
theorem pattern (m : SlotIx) (p : ℤ) : t.pattern m p = s.pattern m p := by
  simp [State.pattern, Slot.pattern, Slot.seqIndex, Slot.phase, Slot.seqLen, h.dirInv, h.half, h.cfg]
theorem shifted (m : SlotIx) (p : ℤ) : t.shifted m p = s.shifted m p := by
  simp [State.shifted, h.pattern, h.bitOffset, h.cfg]
theorem nibbleMask (m : SlotIx) : t.nibbleMask m = s.nibbleMask m := by simp [State.nibbleMask, h.bitOffset, h.cfg]
theorem compose (P : SlotIx → ℤ) : t.compose P = s.compose P := by simp [State.compose, h.registered, h.shifted]
theorem patch (ho : t.out = s.out) (m : SlotIx) (p : ℤ) : t.patch m p = s.patch m p := by
  simp [State.patch, h.nibbleMask, h.shifted, h.cfg, ho]
theorem holdingWord : t.holdingWord = s.holdingWord := by
  rw [State.holdingWord, State.holdingWord, h.compose, funext h.posOf]
theorem anyPending : t.anyPending = s.anyPending := by rw [State.anyPending, State.anyPending, funext h.pending]
theorem maxPendingDelay : t.maxPendingDelay = s.maxPendingDelay := by
  simp only [State.maxPendingDelay, h.pending, h.delay]

end SameMotors

/-- An update of all slots that touches workers and step bits only. -/
theorem sameMotors_mapSlots (s : State) (f : SlotIx → Slot → Slot)
    (h : ∀ m x, (f m x).reg = x.reg ∧ (f m x).dirInv = x.dirInv ∧ (f m x).half = x.half ∧
      (f m x).bitOffset = x.bitOffset ∧ (f m x).spr = x.spr ∧ (f m x).delay = x.delay ∧ (f m x).pos = x.pos ∧
      (f m x).tgt = x.tgt) : SameMotors s (s.mapSlots f) := by
  constructor
  · simp
  all_goals intro m; rw [slot_mapSlots]; split <;> simp [h]

theorem sameMotors_restWorkers (s : State) : SameMotors s (restWorkers s) := sameMotors_mapSlots _ _ (by simp)

theorem sameMotors_clearAdv (s : State) : SameMotors s (clearAdv s) := sameMotors_mapSlots _ _ (by simp)

/-- States with the same parameters and the same slots have the same motors. -/
theorem sameMotors_of_slots {s t : State} (hc : t.cfg = s.cfg) (hs : t.slots = s.slots) : SameMotors s t := by
  constructor
  · exact hc
  all_goals intro m; rw [slot_congr hs]

theorem SameMotors.trans {s t u : State} (h : SameMotors s t) (g : SameMotors t u) : SameMotors s u := by
  constructor
  · rw [g.cfg, h.cfg]
  · intro m; rw [g.reg, h.reg]
  · intro m; rw [g.dirInv, h.dirInv]
  · intro m; rw [g.half, h.half]
  · intro m; rw [g.bitOffset, h.bitOffset]
  · intro m; rw [g.spr, h.spr]
  · intro m; rw [g.delay, h.delay]
  · intro m; rw [g.pos, h.pos]
  · intro m; rw [g.tgt, h.tgt]

end Sys2Proof.Machine
end

