-- ==== Sys2Proof/Laws/Step.lean ====
section
/-! SUPPORT. The shape of an edge: which transaction it accepts, everything that transaction can do to the state,
  and the
engine step that follows. Later proofs take an edge apart with these and never unfold `step`. -/

namespace Sys2Proof.Machine

/-! ## Frames over an update of all slots -/

@[simp] theorem withSlots_withSlots (s : State) (u v : Vector Slot 16) :
    (s.withSlots u).withSlots v = s.withSlots v := rfl

@[simp] theorem withSlots_slots_self (s : State) : s.withSlots s.slots = s := rfl

@[simp] theorem setSlot_withSlots (s : State) (m : SlotIx) (x : Slot) (v : Vector Slot 16) :
    (s.setSlot m x).withSlots v = s.withSlots v := withSlots_withSlots ..

@[simp] theorem mapSlots_withSlots (s : State) (f : SlotIx → Slot → Slot) (v : Vector Slot 16) :
    (s.mapSlots f).withSlots v = s.withSlots v := withSlots_withSlots ..

@[simp] theorem restWorkers_withSlots (s : State) (v : Vector Slot 16) :
    (restWorkers s).withSlots v = s.withSlots v := mapSlots_withSlots ..

@[simp] theorem clearAdv_withSlots (s : State) (v : Vector Slot 16) :
    (clearAdv s).withSlots v = s.withSlots v := mapSlots_withSlots ..

@[simp] theorem commitTick_withSlots (s : State) (v : Vector Slot 16) :
    (commitTick s).withSlots v = s.withSlots v := mapSlots_withSlots ..

@[simp] theorem workersStep_withSlots (s0 s : State) (ack : Bool) (g : Option SlotIx) (v : Vector Slot 16) :
    (workersStep s0 ack g s).withSlots v = s.withSlots v := mapSlots_withSlots ..

@[simp] theorem advance_withSlots (s0 s : State) (v : Vector Slot 16) :
    (advance s0 s).withSlots v = advance s0 (s.withSlots v) := rfl

/-! ## Every command answers a next state -/

theorem exec_next (i : Instr) (s : State) : ∃ t, exec i s = .next t := by
  cases i with
  | nop => exact ⟨_, rfl⟩
  | configure m off dinv half => simp only [exec, execConfigure]; split <;> exact ⟨_, rfl⟩
  | release m => simp only [exec, execRelease]; (repeat' split) <;> exact ⟨_, rfl⟩
  | zero m => simp only [exec, execZero]; (repeat' split) <;> exact ⟨_, rfl⟩
  | setTarget m => simp only [exec, execSetTarget]; (repeat' split) <;> exact ⟨_, rfl⟩
  | run m => simp only [exec, execRun]; (repeat' split) <;> exact ⟨_, rfl⟩
  | wrnib m => simp only [exec, execWrnib]; (repeat' split) <;> exact ⟨_, rfl⟩

/-- What a command can do to the state (R162 to R166, R194, R195, R243, R263). -/
theorem exec_cases {i : Instr} {s t : State} (h : exec i s = .next t) :
    t = s ∨
    (∃ code m, t = raiseConfigurationError code m s) ∨
    (∃ m off dinv half, i = .configure m off dinv half ∧
      s.checkConfigure m off s.argLo s.argHi = none ∧
      t = s.setSlot m { s.slot m with
        bitOffset := BitVec.ofNat 8 off, dirInv := dinv, half := half, spr := s.argLo, delay := s.argHi,
        pos := 0, tgt := 0, reg := true }) ∨
    (∃ m, i = .release m ∧ s.busy = false ∧ s.registered m = true ∧ t = s.setSlot m { s.slot m with reg := false }) ∨
    (∃ m, i = .zero m ∧ s.registered m = true ∧ t = s.setSlot m { s.slot m with pos := 0, tgt := 0 }) ∨
    (∃ m, i = .setTarget m ∧ s.registered m = true ∧ outOfPosRange (s.newTarget m) = false ∧
      t = s.setSlot m { s.slot m with tgt := BitVec.ofInt 64 (s.newTarget m) }) ∨
    (∃ m, i = .run m ∧ s.busy = false ∧ s.cfgErr = false ∧ s.ioErr = false ∧
      (s.mode = .a ∧ t = { s with runMode := .a, done := false, fsm := .eval } ∨
        s.mode = .b ∧ t = restWorkers { s with runMode := .b, done := false, fsm := .runb, rr := 0 })) ∨
    (∃ m, i = .wrnib m ∧ s.busy = false ∧ s.registered m = true ∧
      t = { startEmit (s.patch m (s.posOf m)) m s with fsm := .patch }) := by
  have err : ∀ {code m}, (Host.Outcome.next (raiseConfigurationError code m s) : Host.Outcome State Fault Refusal) =
      .next t → ∃ code m, t = raiseConfigurationError code m s :=
    fun {code m} h => ⟨code, m, (Host.Outcome.next.inj h).symm⟩
  cases i with
  | nop => exact .inl (Host.Outcome.next.inj h).symm
  | configure m off dinv half =>
    simp only [exec, execConfigure] at h
    split at h
    · exact .inr (.inl (err h))
    · rename_i hc
      exact .inr (.inr (.inl ⟨m, off, dinv, half, rfl, hc, (Host.Outcome.next.inj h).symm⟩))
  | release m =>
    simp only [exec, execRelease] at h
    split at h; · exact .inr (.inl (err h))
    split at h; · exact .inr (.inl (err h))
    split at h; · exact .inr (.inl (err h))
    refine .inr (.inr (.inr (.inl ⟨m, rfl, by simp_all, ?_, (Host.Outcome.next.inj h).symm⟩)))
    simp_all [State.registered]
  | zero m =>
    simp only [exec, execZero] at h
    split at h; · exact .inr (.inl (err h))
    split at h; · exact .inr (.inl (err h))
    refine .inr (.inr (.inr (.inr (.inl ⟨m, rfl, ?_, (Host.Outcome.next.inj h).symm⟩))))
    simp_all [State.registered]
  | setTarget m =>
    simp only [exec, execSetTarget] at h
    split at h; · exact .inr (.inl (err h))
    split at h; · exact .inr (.inl (err h))
    split at h; · exact .inr (.inl (err h))
    split at h; · exact .inr (.inl (err h))
    refine .inr (.inr (.inr (.inr (.inr (.inl ⟨m, rfl, ?_, by simp_all, (Host.Outcome.next.inj h).symm⟩)))))
    simp_all [State.registered]
  | run m =>
    simp only [exec, execRun] at h
    split at h; · exact .inl (Host.Outcome.next.inj h).symm
    split at h; · exact .inr (.inl (err h))
    refine .inr (.inr (.inr (.inr (.inr (.inr (.inl ⟨m, rfl, by simp_all, by simp_all, by simp_all, ?_⟩))))))
    split at h
    · exact .inl ⟨by assumption, (Host.Outcome.next.inj h).symm⟩
    · exact .inr ⟨by assumption, (Host.Outcome.next.inj h).symm⟩
  | wrnib m =>
    simp only [exec, execWrnib] at h
    split at h; · exact .inr (.inl (err h))
    split at h; · exact .inr (.inl (err h))
    split at h; · exact .inr (.inl (err h))
    refine .inr (.inr (.inr (.inr (.inr (.inr (.inr ⟨m, rfl, by simp_all, ?_, (Host.Outcome.next.inj h).symm⟩))))))
    simp_all [State.registered]

/-! ## The accepted transaction -/

theorem runCommand_next (w : Word) (s : State) : ∃ t, runCommand w s = .next t := by
  simp only [runCommand]
  split
  · exact exec_next _ _
  · exact ⟨_, rfl⟩

theorem writeEffect_next (a : Addr) (v : Word) (s : State) : ∃ t, writeEffect a v s = .next t := by
  simp only [writeEffect]
  split <;> first | exact ⟨_, rfl⟩ | exact runCommand_next _ _

theorem hostTransaction_next (s : State) : ∃ t, hostTransaction s = .next t := by
  simp only [hostTransaction]
  split
  · split <;> first | exact ⟨_, rfl⟩ | exact writeEffect_next _ _ _
  · exact ⟨_, rfl⟩

/-- What a write can do: nothing, the four writable registers, or a command (R84). -/
theorem writeEffect_cases {a : Addr} {v : Word} {s t : State} (h : writeEffect a v s = .next t) :
    t = s ∨ t = writeCtrl v s ∨ t = writeStatus v s ∨ t = { s with argLo := v } ∨ t = { s with argHi := v } ∨
      (s.regAt a = .global .cmd ∧ runCommand v s = .next t) := by
  simp only [writeEffect] at h
  split at h
  · exact .inr (.inl (Host.Outcome.next.inj h).symm)
  · exact .inr (.inr (.inl (Host.Outcome.next.inj h).symm))
  · exact .inr (.inr (.inr (.inl (Host.Outcome.next.inj h).symm)))
  · exact .inr (.inr (.inr (.inr (.inl (Host.Outcome.next.inj h).symm))))
  · rename_i h'; exact .inr (.inr (.inr (.inr (.inr ⟨h', h⟩))))
  · exact .inl (Host.Outcome.next.inj h).symm

/-- CMD sits at 0x010 and nowhere else (R31). -/
theorem regAt_eq_cmd_iff (s : State) (a : Addr) : s.regAt a = .global .cmd ↔ wordAddr a = 0x010 := by
  constructor
  · intro h
    simp only [State.regAt] at h
    split at h
    · unfold globalRegAt at h; split at h <;> simp_all
    · split at h
      · split at h
        · unfold slotRegAt at h; split at h <;> simp at h
        · simp at h
      · simp at h
  · intro h; simp [State.regAt, h, globalRegAt]

/-- What an accepted transaction can do (R83, R84, R191): nothing, load SNAP, write one of the four registers,
  or run a
command word, and this only while no emit is in flight (R221). -/
theorem hostTransaction_cases {s t : State} (h : hostTransaction s = .next t) :
    t = s ∨ (∃ v, t = { s with snap := v }) ∨ (∃ v, t = writeCtrl v s) ∨ (∃ v, t = writeStatus v s) ∨
      (∃ v, t = { s with argLo := v }) ∨ (∃ v, t = { s with argHi := v }) ∨
      (s.accepted = true ∧ s.request.isCmdWrite = true ∧ s.emitting = false ∧ ∃ w, runCommand w s = .next t) := by
  simp only [hostTransaction] at h
  split at h
  · rename_i ha
    split at h
    · exact .inl (Host.Outcome.next.inj h).symm
    · rename_i a hq
      have h := (Host.Outcome.next.inj h).symm
      simp only [readEffect] at h
      split at h
      · exact .inr (.inl ⟨_, h⟩)
      · exact .inr (.inl ⟨_, h⟩)
      · exact .inl h
    · rename_i a v hq
      rcases writeEffect_cases h with h | h | h | h | h | ⟨hc, h⟩
      · exact .inl h
      · exact .inr (.inr (.inl ⟨v, h⟩))
      · exact .inr (.inr (.inr (.inl ⟨v, h⟩)))
      · exact .inr (.inr (.inr (.inr (.inl ⟨v, h⟩))))
      · exact .inr (.inr (.inr (.inr (.inr (.inl ⟨v, h⟩)))))
      · have hw : s.request.isCmdWrite = true := by
          rw [regAt_eq_cmd_iff] at hc
          simp [hq, BusCycle.isCmdWrite, hc]
        refine .inr (.inr (.inr (.inr (.inr (.inr ⟨ha, hw, ?_, v, h⟩)))))
        simp only [State.accepted, State.busReady, hw, Bool.true_and, Bool.and_eq_true, Bool.not_eq_true'] at ha
        exact ha.2
  · exact .inl (Host.Outcome.next.inj h).symm

/-- What a command word can do: a reserved opcode records an error, every other word runs its command (R113, R192). -/
theorem runCommand_cases {w : Word} {s t : State} (h : runCommand w s = .next t) :
    (∃ m, t = raiseConfigurationError .badOpcode m s) ∨ ∃ i, decode w = .ok i ∧ exec i s = .next t := by
  simp only [runCommand] at h
  split at h
  · rename_i i hd; exact .inr ⟨i, hd, h⟩
  · exact .inl ⟨_, (Host.Outcome.next.inj h).symm⟩

/-! ## The edge (R191) -/

theorem step_of_reset {s : State} (h : s.pin.rst = true) : step s = .next (resetEdge s) := by
  simp [step, clockEdge, h]

theorem step_eq {s s1 : State} (hr : s.pin.rst = false) (h : hostTransaction s = .next s1) :
    step s = .next (advance s (engineStep s.fsm s.pin s1)) := by
  simp [step, clockEdge, hr, h, finishEdge]

theorem hostTransaction_of_idle {s : State} (hq : s.request = .idle) : hostTransaction s = .next s := by
  simp [hostTransaction, State.accepted, hq, BusCycle.valid]

/-- A read is accepted in its cycle, and its effect is the whole transaction (R81, R83). -/
theorem hostTransaction_of_read {s : State} {a : Addr} (hq : s.request = .read a) :
    hostTransaction s = .next (readEffect a s) := by
  simp [hostTransaction, State.accepted, State.busReady, hq, BusCycle.valid, BusCycle.isCmdWrite]

/-- A write elsewhere than to CMD, or with no emit in flight, is accepted in its cycle, and its effect is the whole
transaction (R81, R84). -/
theorem hostTransaction_of_write {s : State} {a : Addr} {v : Word} (hq : s.request = .write a v)
    (h : a &&& 0xFFC#12 ≠ 0x010#12 ∨ s.emitting = false) : hostTransaction s = writeEffect a v s := by
  have hw : s.request.isCmdWrite = true → a &&& 0xFFC#12 = 0x010#12 := by
    simp [hq, BusCycle.isCmdWrite, wordAddr, ← BitVec.toNat_inj]
  have ha : s.accepted = true := by
    simp only [State.accepted, State.busReady, hq, BusCycle.valid, Bool.true_and, Bool.not_eq_true', Bool.and_eq_false_iff]
    rcases h with h | h
    · exact .inl (by rw [← hq]; exact Bool.eq_false_iff.2 fun hc => h (hw hc))
    · exact .inr h
  simp [hostTransaction, ha, hq]

/-- A write to CMD while an emit is in flight is held (R81, R221). -/
theorem hostTransaction_of_held {s : State} {a : Addr} {v : Word} (hq : s.request = .write a v)
    (h : a &&& 0xFFC#12 = 0x010#12) (he : s.emitting = true) : hostTransaction s = .next s := by
  have hw : s.request.isCmdWrite = true := by simp [hq, BusCycle.isCmdWrite, wordAddr, h]
  simp [hostTransaction, State.accepted, State.busReady, hw, he]

/-- An edge at which the host presents nothing is the engine step alone. -/
theorem step_of_idle {s : State} (hr : s.pin.rst = false) (hq : s.request = .idle) :
    step s = .next (advance s (engineStep s.fsm s.pin s)) := step_eq hr (hostTransaction_of_idle hq)

theorem hostAfter_of_idle {s : State} (hq : s.request = .idle) : s.hostAfter = s.host.tail := by
  simp [State.hostAfter, hq]

/-- A step is a reset, or the accepted transaction and then the engine step. -/
theorem step_cases {s t : State} (h : step s = .next t) :
    (s.pin.rst = true ∧ t = resetEdge s) ∨
      (s.pin.rst = false ∧ ∃ s1, hostTransaction s = .next s1 ∧ t = advance s (engineStep s.fsm s.pin s1)) := by
  cases hr : s.pin.rst
  · obtain ⟨s1, h1⟩ := hostTransaction_next s
    rw [step_eq hr h1] at h
    exact .inr ⟨rfl, s1, h1, (Host.Outcome.next.inj h).symm⟩
  · rw [step_of_reset hr] at h
    exact .inl ⟨rfl, (Host.Outcome.next.inj h).symm⟩

end Sys2Proof.Machine
end

