-- ==== Sys2Proof/Laws/Engine.lean ====
section
/-! SUPPORT. What the engine step leaves as it was and what it does not read: it neither reads nor writes the surroundings
of the block and SNAP, and no transaction or engine step changes the parameters. -/

namespace Sys2Proof.Machine

/-- A state in other surroundings and with another SNAP, which only a host read touches (R83). -/
def surround (s : State) (p : List Pins) (h : List BusCycle) (e : Nat) (x : Word) : State :=
  { s with pins := p, host := h, edge := e, snap := x }

theorem surround_withSlots (s : State) (p h e x v) :
    surround (s.withSlots v) p h e x = (surround s p h e x).withSlots v := rfl
theorem surround_mapSlots (s : State) (p h e x f) :
    (surround s p h e x).mapSlots f = surround (s.mapSlots f) p h e x := rfl

theorem same_surround (s : State) (p h e x) : SameMotors s (surround s p h e x) :=
  sameMotors_of_slots rfl rfl

theorem issueTick_surround (s : State) (p h e x) : issueTick (surround s p h e x) = surround (issueTick s) p h e x := by
  have hs := same_surround s p h e x
  have h1 : (surround s p h e x).compose (surround s p h e x).tickPos = s.compose s.tickPos := by
    rw [hs.compose, funext hs.tickPos]
  simp only [issueTick, h1, hs.maxPendingDelay, hs.pending, hs.toward, ← surround_mapSlots]
  rfl

theorem startHolding_surround (s : State) (p h e x) :
    startHolding (surround s p h e x) = surround (startHolding s) p h e x := by
  have hs := same_surround s p h e x
  simp only [startHolding, hs.holdingWord]; rfl

theorem workersStep_surround (s t : State) (a g p h e x) :
    workersStep (surround s p h e x) a g (surround t p h e x) = surround (workersStep s a g t) p h e x := by
  have hs := same_surround s p h e x
  have : workerStep (surround s p h e x) a g = workerStep s a g := by
    funext m y; simp only [workerStep, hs.pending, hs.toward]
  simp only [workersStep, this, surround_mapSlots]

theorem engineStep_surround (f : Fsm) (pp : Pins) (s : State) (p h e x) :
    engineStep f pp (surround s p h e x) = surround (engineStep f pp s) p h e x := by
  cases f with
  | idle => rfl
  | eval =>
    simp only [engineStep, evalStep]
    rw [show (surround s p h e x).anyPending = s.anyPending from rfl]
    cases s.anyPending
    · simp only [Bool.false_eq_true, if_false, startHolding_surround]; rfl
    · exact issueTick_surround ..
  | emit =>
    simp only [engineStep, emitStep]
    cases pp.err <;> cases pp.ack <;> rfl
  | sleep =>
    simp only [engineStep, sleepStep]
    rw [show (surround s p h e x).sleepCnt = s.sleepCnt from rfl]
    split <;> rfl
  | final =>
    simp only [engineStep, finalStep]
    cases pp.err <;> cases pp.ack <;> rfl
  | patch =>
    simp only [engineStep, patchStep]
    cases pp.err <;> cases pp.ack <;> rfl
  | runb =>
    simp only [engineStep, runbStep]
    rw [show (surround s p h e x).emittingWorker = s.emittingWorker from rfl,
      show (surround s p h e x).allWorkersIdle = s.allWorkersIdle from rfl,
      show (surround s p h e x).anyPending = s.anyPending from rfl,
      show (surround s p h e x).arbiterChoice = s.arbiterChoice from rfl]
    cases s.emittingWorker with
    | some w =>
      cases pp.err <;> cases pp.ack
      · exact workersStep_surround ..
      · exact workersStep_surround s (ackEmit s) ..
      · rfl
      · rfl
    | none =>
      dsimp only
      cases s.allWorkersIdle && !s.anyPending
      · cases s.arbiterChoice with
        | none => exact workersStep_surround ..
        | some g =>
          have hs := same_surround s p h e x
          simp only [Bool.false_eq_true, if_false, grantStep,
            hs.patch (show (surround s p h e x).out = s.out from rfl), hs.steppedPos]
          exact workersStep_surround s { startEmit (s.patch g (s.steppedPos g)) g s with rr := s.nextRr g } ..
      · exact startHolding_surround ..

/-! ## What no engine step changes -/

/-- What every engine step leaves as it was: the parameters, what only the host writes,
  and the surroundings (R191). -/
theorem engineStep_frame (f : Fsm) (p : Pins) (s : State) :
    (engineStep f p s).cfg = s.cfg ∧ (engineStep f p s).mode = s.mode ∧ (engineStep f p s).ieDone = s.ieDone ∧
      (engineStep f p s).ieErr = s.ieErr ∧ (engineStep f p s).cfgErr = s.cfgErr ∧
      (engineStep f p s).runMode = s.runMode ∧ (engineStep f p s).argLo = s.argLo ∧
      (engineStep f p s).argHi = s.argHi ∧ (engineStep f p s).snap = s.snap ∧ (engineStep f p s).pins = s.pins ∧
      (engineStep f p s).host = s.host ∧ (engineStep f p s).edge = s.edge := by
  cases f with
  | idle => simp [engineStep]
  | eval => simp only [engineStep, evalStep]; split <;> simp [issueTick, startHolding]
  | emit => simp only [engineStep, emitStep]; (repeat' split) <;> simp
  | sleep => simp only [engineStep, sleepStep]; split <;> simp
  | final => simp only [engineStep, finalStep]; (repeat' split) <;> simp
  | patch => simp only [engineStep, patchStep]; (repeat' split) <;> simp
  | runb => simp only [engineStep, runbStep]; (repeat' split) <;> simp [abortRun, startHolding, grantStep]

/-! ## What no transaction changes -/

/-- What every command leaves as it was. -/
theorem exec_frame {i : Instr} {s t : State} (h : exec i s = .next t) :
    t.cfg = s.cfg ∧ t.pins = s.pins ∧ t.host = s.host ∧ t.edge = s.edge ∧ t.out = s.out ∧
      t.latchKnown = s.latchKnown ∧ t.sleepCnt = s.sleepCnt ∧ t.sleepLen = s.sleepLen ∧ t.ioErr = s.ioErr := by
  rcases exec_cases h with rfl | ⟨_, _, rfl⟩ | ⟨m, _, _, _, _, _, rfl⟩ | ⟨m, _, _, _, rfl⟩ | ⟨m, _, _, rfl⟩ |
    ⟨m, _, _, _, rfl⟩ | ⟨m, _, _, _, _, ⟨_, rfl⟩ | ⟨_, rfl⟩⟩ | ⟨m, _, _, _, rfl⟩ <;> simp

/-- What every accepted transaction leaves as it was. -/
theorem hostTransaction_frame {s t : State} (h : hostTransaction s = .next t) :
    t.cfg = s.cfg ∧ t.pins = s.pins ∧ t.host = s.host ∧ t.edge = s.edge ∧ t.out = s.out ∧
      t.latchKnown = s.latchKnown ∧ t.sleepCnt = s.sleepCnt ∧ t.sleepLen = s.sleepLen := by
  rcases hostTransaction_cases h with rfl | ⟨_, rfl⟩ | ⟨_, rfl⟩ | ⟨_, rfl⟩ | ⟨_, rfl⟩ | ⟨_, rfl⟩ | ⟨_, _, _, w, h⟩
  iterate 6 simp
  rcases runCommand_cases h with ⟨_, rfl⟩ | ⟨i, _, h⟩
  · simp
  · obtain ⟨h1, h2, h3, h4, h5, h6, h7, h8, _⟩ := exec_frame h
    exact ⟨h1, h2, h3, h4, h5, h6, h7, h8⟩

/-- While the engine is not in IDLE no accepted transaction changes what the engine step is chosen by (R191, R193). -/
theorem hostTransaction_fsm {s t : State} (h : hostTransaction s = .next t) (hf : s.fsm ≠ .idle) : t.fsm = s.fsm := by
  rcases hostTransaction_cases h with rfl | ⟨_, rfl⟩ | ⟨_, rfl⟩ | ⟨_, rfl⟩ | ⟨_, rfl⟩ | ⟨_, rfl⟩ | ⟨_, _, he, w, h⟩
  iterate 6 rfl
  have hb : s.busy = true := by
    cases hs : s.fsm <;> simp_all [State.busy, State.emitting]
  rcases runCommand_cases h with ⟨_, rfl⟩ | ⟨i, _, h⟩
  · simp
  · rcases exec_cases h with rfl | ⟨_, _, rfl⟩ | ⟨m, _, _, _, _, _, rfl⟩ | ⟨m, _, _, _, rfl⟩ | ⟨m, _, _, rfl⟩ |
      ⟨m, _, _, _, rfl⟩ | ⟨m, _, hb', _⟩ | ⟨m, _, hb', _⟩ <;> simp_all

/-- OUT changes in an engine step only by the acknowledge of an emit in flight (R248). -/
theorem engineStep_out (f : Fsm) (p : Pins) (s : State) : (engineStep f p s).out = s.out ∨ ((f = .emit ∨
    f = .final ∨ f = .patch ∨ f = .runb ∧ ∃ e, s.emittingWorker = some e) ∧ p.ack = true ∧ p.err = false ∧
    (engineStep f p s).out = s.emitData) := by
  cases f with
  | idle => simp [engineStep]
  | eval => simp only [engineStep, evalStep]; split <;> simp [issueTick, startHolding]
  | emit => simp only [engineStep, emitStep]; split <;> [skip; split] <;> simp_all
  | sleep => simp only [engineStep, sleepStep]; split <;> simp
  | final => simp only [engineStep, finalStep];  split <;> [skip; split] <;> simp_all
  | patch => simp only [engineStep, patchStep];  split <;> [skip; split] <;> simp_all
  | runb =>
    simp only [engineStep, runbStep]; split
    · split <;> [skip; split] <;> simp_all [abortRun]
    · split <;> [skip; split] <;> simp_all [startHolding, grantStep]

theorem emittingWorker_isSome (s : State) : s.emittingWorker.isSome = s.anyWorkerEmitting := by
  rw [Bool.eq_iff_iff]
  simp [State.emittingWorker, State.anyWorkerEmitting]

/-- While an emit is in flight no command runs, so the transaction leaves the slots and the emit alone (R221). -/
theorem hostTransaction_of_emitting {s s1 : State} (h : hostTransaction s = .next s1) (he : s.emitting = true) :
    s1.slots = s.slots ∧ s1.emitData = s.emitData ∧ s1.emot = s.emot ∧ s1.fsm = s.fsm := by
  rcases hostTransaction_cases h with rfl | ⟨_, rfl⟩ | ⟨_, rfl⟩ | ⟨_, rfl⟩ | ⟨_, rfl⟩ | ⟨_, rfl⟩ | ⟨_, _, he', _⟩
  iterate 6 simp
  rw [he] at he'; contradiction

/-- While the engine is not in IDLE no accepted transaction changes a worker or an emit (R191). -/
theorem hostTransaction_workers {s s1 : State} (h : hostTransaction s = .next s1) (hf : s.fsm ≠ .idle) : (∀ m,
    (s1.slot m).w = (s.slot m).w) ∧ s1.emitData = s.emitData ∧ s1.emot = s.emot := by
  rcases hostTransaction_cases h with rfl | ⟨_, rfl⟩ | ⟨_, rfl⟩ | ⟨_, rfl⟩ | ⟨_, rfl⟩ | ⟨_, rfl⟩ | ⟨_, _, he, w, h⟩
  iterate 6 simp [State.slot]
  have hb : s.busy = true := by
    cases hs : s.fsm <;> simp_all [State.busy, State.emitting]
  rcases runCommand_cases h with ⟨_, rfl⟩ | ⟨i, _, h⟩
  · simp [State.slot]
  · rcases exec_cases h with rfl | ⟨_, _, rfl⟩ | ⟨m, off, dinv, half, _, hc, rfl⟩ | ⟨m, _, _, _, rfl⟩ | ⟨m, _, _,
    rfl⟩ |
      ⟨m, _, _, _, rfl⟩ | ⟨m, _, hb', _⟩ | ⟨m, _, hb', _⟩
    · simp
    · simp [State.slot]
    · exact ⟨fun j => by rw [slot_setSlot]; split <;> simp_all, by simp, by simp⟩
    · exact ⟨fun j => by rw [slot_setSlot]; split <;> simp_all, by simp, by simp⟩
    · exact ⟨fun j => by rw [slot_setSlot]; split <;> simp_all, by simp, by simp⟩
    · exact ⟨fun j => by rw [slot_setSlot]; split <;> simp_all, by simp, by simp⟩
    · rw [hb] at hb'; contradiction
    · rw [hb] at hb'; contradiction

theorem emittingWorker_congr {s s1 : State} (hc : s1.cfg = s.cfg) (h : ∀ m, (s1.slot m).w = (s.slot m).w) :
    s1.emittingWorker = s.emittingWorker := by
  simp [State.emittingWorker, State.isSlot, hc, h]

end Sys2Proof.Machine
end

