-- ==== Sys2Proof/Laws/Bus.lean ====
section
/-! SUPPORT. The address map: which register an address reaches, for the global registers, the registers of a slot and
the rest; and the fields of a register word. -/

namespace Sys2Proof.Machine

theorem wordAddr_iff (a b : Addr) : wordAddr a = b.toNat ↔ a &&& 0xFFC#12 = b :=
  ⟨fun h => BitVec.eq_of_toNat_eq h, fun h => congrArg BitVec.toNat h⟩

theorem regAt_of_lt (s : State) {a : Addr} (h : wordAddr a < 0x100) : s.regAt a = globalRegAt (wordAddr a) := by
  simp [State.regAt, h]

/-- The global register at word address b (R31). -/
theorem regAt_global (s : State) {a b : Addr} (h : a &&& 0xFFC#12 = b) (hb : b.toNat < 0x100) :
    s.regAt a = globalRegAt b.toNat := by
  have := (wordAddr_iff a b).2 h
  rw [regAt_of_lt s (by rw [this]; exact hb), this]

/-- The register at an offset of slot m (R32). -/
theorem regAt_slot (s : State) {a : Addr} {m : SlotIx} {off : Nat} (h : wordAddr a = 0x100 + 0x40 * m.val + off)
    (ho : off < 0x40) (hm : m.val < s.cfg.nMotors) : s.regAt a = slotRegAt m off := by
  have h1 : ¬ wordAddr a < 0x100 := by omega
  have h2 : (wordAddr a - 0x100) / 0x40 = m.val := by omega
  have h3 : (wordAddr a - 0x100) % 0x40 = off := by omega
  simp only [State.regAt, h1, if_false, h2, h3, hm, if_true, m.isLt, dif_pos]

/-- No register at a reserved global offset or beyond the last slot (R88). -/
theorem regAt_unmapped (s : State) {a : Addr}
    (h : 0x030 ≤ wordAddr a ∧ wordAddr a < 0x100 ∨ 0x100 + 0x40 * s.cfg.nMotors ≤ wordAddr a) :
    s.regAt a = .unmapped := by
  rcases h with ⟨h1, h2⟩ | h
  · rw [regAt_of_lt s h2]
    unfold globalRegAt
    split <;> first | rfl | omega
  · have h1 : ¬ wordAddr a < 0x100 := by omega
    have h2 : ¬ (wordAddr a - 0x100) / 0x40 < s.cfg.nMotors := by omega
    simp only [State.regAt, h1, if_false, h2]

/-- An address at or above 0x100 reaches a register of a slot, or nothing. -/
theorem regAt_high (s : State) {a : Addr} (h : 0x100 ≤ wordAddr a) :
    s.regAt a = .unmapped ∨ ∃ m : SlotIx, ∃ off < 0x40, m.val < s.cfg.nMotors ∧
      wordAddr a = 0x100 + 0x40 * m.val + off ∧ s.regAt a = slotRegAt m off := by
  by_cases h1 : (wordAddr a - 0x100) / 0x40 < s.cfg.nMotors
  · by_cases h2 : (wordAddr a - 0x100) / 0x40 < 16
    · right
      refine ⟨⟨_, h2⟩, (wordAddr a - 0x100) % 0x40, by omega, h1, by dsimp only; omega, ?_⟩
      simp only [State.regAt, not_lt.2 h, if_false, h1, if_true, h2, dif_pos]
    · left; simp only [State.regAt, not_lt.2 h, if_false, h1, if_true, h2, dif_neg, not_false_eq_true]
  · left; simp only [State.regAt, not_lt.2 h, if_false, h1]

/-- The LO read of POS loads SNAP and changes nothing else (R83). -/
theorem readEffect_posLo {s : State} {a : Addr} {m : SlotIx} (h : wordAddr a = 0x110 + 0x40 * m.val)
    (hm : m.val < s.cfg.nMotors) : readEffect a s = { s with snap := hiWord (s.slot m).pos } := by
  simp only [readEffect, regAt_slot s (show wordAddr a = 0x100 + 0x40 * m.val + 0x10 by omega) (by decide) hm,
    slotRegAt]

/-- The LO read of TGT loads SNAP and changes nothing else (R83). -/
theorem readEffect_tgtLo {s : State} {a : Addr} {m : SlotIx} (h : wordAddr a = 0x118 + 0x40 * m.val)
    (hm : m.val < s.cfg.nMotors) : readEffect a s = { s with snap := hiWord (s.slot m).tgt } := by
  simp only [readEffect, regAt_slot s (show wordAddr a = 0x100 + 0x40 * m.val + 0x18 by omega) (by decide) hm,
    slotRegAt]

/-- Masking a word to OUT_WIDTH bits is taking it modulo 2 ^ OUT_WIDTH. -/
theorem toNat_and_outMask {cfg : Config} (h : cfg.outWidth ≤ 32) (w : Word) :
    (w &&& outMask cfg).toNat = w.toNat % 2 ^ cfg.outWidth := by
  have h1 : 2 ^ cfg.outWidth ≤ 2 ^ 32 := Nat.pow_le_pow_right (by omega) h
  have h2 : 0 < 2 ^ cfg.outWidth := Nat.two_pow_pos _
  simp only [outMask, BitVec.toNat_and, BitVec.toNat_ofNat]
  rw [Nat.mod_eq_of_lt (a := 2 ^ cfg.outWidth - 1) (by omega), Nat.and_two_pow_sub_one_eq_mod]

/-- Bit b of the OUT_WIDTH mask. -/
theorem getLsbD_outMask {cfg : Config} (h : cfg.outWidth ≤ 32) (b : Nat) :
    (outMask cfg).getLsbD b = decide (b < cfg.outWidth) := by
  have h1 : 2 ^ cfg.outWidth ≤ 2 ^ 32 := Nat.pow_le_pow_right (by omega) h
  have h2 : 0 < 2 ^ cfg.outWidth := Nat.two_pow_pos _
  simp only [outMask, BitVec.getLsbD, BitVec.toNat_ofNat]
  rw [Nat.mod_eq_of_lt (a := 2 ^ cfg.outWidth - 1) (by omega), Nat.testBit_two_pow_sub_one]

theorem outWidth_le {cfg : Config} (h : cfg.WF) : cfg.outWidth ≤ 32 := by
  have := h.2.2
  simp only [List.mem_cons, List.not_mem_nil, or_false] at this
  omega

end Sys2Proof.Machine
end

