-- ==== Sys2Proof/Laws/Encoding.lean ====
section
/-! SUPPORT. The fields of a CMD word as quotients and remainders, and the value of an encoded word. -/

namespace Sys2Proof

theorem opField_toNat (w : Word) : (opField w).toNat = w.toNat % 2 ^ 4 := by
  simp [opField, BitVec.extractLsb'_toNat]

theorem motorField_val (w : Word) : (motorField w).val = w.toNat / 2 ^ 8 % 2 ^ 4 := by
  simp [motorField, Nat.shiftRight_eq_div_pow]

theorem bitOffsetField_eq (w : Word) : bitOffsetField w = w.toNat / 2 ^ 16 % 2 ^ 8 := by
  simp [bitOffsetField, Nat.shiftRight_eq_div_pow]

/-- The value of an encoded word whose fields fit their places (R111). -/
theorem toNat_cmdWord {op off : Nat} (m : SlotIx) (dinv half : Bool) (ho : op < 16) (h : off < 256) :
    (cmdWord op m off dinv half).toNat =
      op + 256 * m.val + 65536 * off + 2 ^ 24 * dinv.toNat + 2 ^ 25 * half.toNat := by
  have := m.isLt
  have := Bool.toNat_le dinv
  have := Bool.toNat_le half
  simp only [cmdWord, atBit, BitVec.toNat_ofNat]
  omega

/-- The OP field of an encoded word. -/
theorem opField_cmdWord {op off : Nat} (m : SlotIx) (dinv half : Bool) (ho : op < 16) (h : off < 256) :
    (opField (cmdWord op m off dinv half)).toNat = op := by
  rw [opField_toNat, toNat_cmdWord m dinv half ho h]
  omega

end Sys2Proof
end

