-- ==== Sys2Proof/Laws/Output.lean ====
section
/-! SUPPORT. The words of the output multiplexer bit by bit: the nibble mask, one motor's shifted pattern,
  the composed
word and the patched word. -/

namespace Sys2Proof.Machine

theorem getLsbD_shifted (s : State) (m : SlotIx) (p : ℤ) (b : Nat) (hw : s.cfg.WF) :
    (s.shifted m p).getLsbD b = (decide (b < s.cfg.outWidth) && decide ((s.slot m).bitOffset.toNat ≤ b ∧
      b < (s.slot m).bitOffset.toNat + 4) && (s.pattern m p).getLsbD (b - (s.slot m).bitOffset.toNat)) := by
  have h32 := outWidth_le hw
  simp only [State.shifted, BitVec.getLsbD_and, getLsbD_outMask h32, BitVec.getLsbD_shiftLeft,
    BitVec.getLsbD_setWidth]
  by_cases h1 : b < s.cfg.outWidth
  · have : b < 32 := by omega
    by_cases h2 : (s.slot m).bitOffset.toNat ≤ b
    · by_cases h3 : b < (s.slot m).bitOffset.toNat + 4
      · simp [h1, h2, h3, this, show ¬ b < (s.slot m).bitOffset.toNat by omega,
        show b - (s.slot m).bitOffset.toNat < 32 by omega]
      · have : (s.pattern m p).getLsbD (b - (s.slot m).bitOffset.toNat) = false := BitVec.getLsbD_of_ge _ _ (by omega)
        simp [this]
    · simp [h2, show b < (s.slot m).bitOffset.toNat by omega]
  · simp [h1]

theorem getLsbD_nibbleMask (s : State) (m : SlotIx) (b : Nat) (hw : s.cfg.WF) :
    (s.nibbleMask m).getLsbD b = (decide (b < s.cfg.outWidth) && decide ((s.slot m).bitOffset.toNat ≤ b ∧
      b < (s.slot m).bitOffset.toNat + 4)) := by
  have h32 := outWidth_le hw
  simp only [State.nibbleMask, BitVec.getLsbD_and, getLsbD_outMask h32, BitVec.getLsbD_shiftLeft]
  have key : ∀ k, (0xF#32).getLsbD k = decide (k < 4) := by
    intro k
    by_cases hk : k < 4
    · have : k = 0 ∨ k = 1 ∨ k = 2 ∨ k = 3 := by omega
      rcases this with h | h | h | h <;> subst h <;> rfl
    · simp only [hk, decide_false]
      by_cases h5 : k < 32
      · have := (by decide : ∀ k : Fin 32, ¬ k.val < 4 → (0xF#32).getLsbD k.val = false) ⟨k, h5⟩ hk
        exact this
      · exact BitVec.getLsbD_of_ge _ _ (by omega)
  rw [key]
  by_cases h1 : b < s.cfg.outWidth
  · have : b < 32 := by omega
    by_cases h2 : (s.slot m).bitOffset.toNat ≤ b
    · have : (b - (s.slot m).bitOffset.toNat < 4) ↔ b < (s.slot m).bitOffset.toNat + 4 := by omega
      simp [*, show ¬ b < (s.slot m).bitOffset.toNat by omega]
    · simp [h2, show b < (s.slot m).bitOffset.toNat by omega]
  · simp [h1]

theorem getLsbD_composeFold (s : State) (P : SlotIx → ℤ) (b : Nat) (l : List SlotIx) (a : Word) :
    (l.foldl (fun acc m => if s.registered m then acc ||| s.shifted m (P m) else acc) a).getLsbD b = true ↔
     a.getLsbD b = true ∨ ∃ m ∈ l, s.registered m = true ∧ (s.shifted m (P m)).getLsbD b = true := by
  induction l generalizing a with
  | nil => simp
  | cons x l ih =>
    simp only [List.foldl_cons]
    rw [ih]
    cases hx : s.registered x <;> simp [hx, or_assoc]

theorem getLsbD_compose (s : State) (P : SlotIx → ℤ) (b : Nat) :
    (s.compose P).getLsbD b = true ↔ ∃ m, s.registered m = true ∧ (s.shifted m (P m)).getLsbD b = true := by
  unfold State.compose
  rw [getLsbD_composeFold]; simp [mem_allSlots]

theorem getLsbD_patch (s : State) (g : SlotIx) (p : ℤ) (b : Nat) (hw : s.cfg.WF) :
    (s.patch g p).getLsbD b = (decide (b < s.cfg.outWidth) &&
      if (s.slot g).bitOffset.toNat ≤ b ∧ b < (s.slot g).bitOffset.toNat + 4 then
        (s.pattern g p).getLsbD (b - (s.slot g).bitOffset.toNat)
      else s.out.getLsbD b) := by
  have h32 := outWidth_le hw
  simp only [State.patch, BitVec.getLsbD_and, BitVec.getLsbD_or, BitVec.getLsbD_not, getLsbD_outMask h32,
    getLsbD_nibbleMask s g b hw, getLsbD_shifted s g p b hw]
  by_cases hb : b < s.cfg.outWidth
  · have : b < 32 := by omega
    split
    · rename_i h; simp [hb, h, this]
    · rename_i h; simp [hb, h, this]
  · simp [hb]


/-- Two registered motors own no bit in common (R63 (1), R165). -/
theorem Invariant.nibbles_apart {s : State} (hi : Invariant s) {m j : SlotIx} (h : m ≠ j) (hm : s.registered m = true)
    (hj : s.registered j = true) {b : Nat}
    (h1 : (s.slot m).bitOffset.toNat ≤ b ∧ b < (s.slot m).bitOffset.toNat + 4)
    (h2 : (s.slot j).bitOffset.toNat ≤ b ∧ b < (s.slot j).bitOffset.toNat + 4) : False := by
  have a1 := (hi.calibrated m hm).2.2.1
  have a2 := (hi.calibrated j hj).2.2.1
  exact hi.disjoint m j h hm hj (BitVec.eq_of_toNat_eq (by omega))

end Sys2Proof.Machine
end

