-- ==== Sys2Proof/Laws/Scheduler.lean ====
section
/-! SUPPORT. The parts of a run: the largest pending delay, one step of a motor, one transition of a worker, and the
arbiter's choice. -/

namespace Sys2Proof.Machine

/-! ## The tick's sleep (R200) -/

theorem foldl_maxDelay (s : State) (l : List SlotIx) (a : Nat) :
    let r := l.foldl (fun acc m => if s.pending m then max acc (s.slot m).delay.toNat else acc) a
    a ≤ r ∧ (∀ m ∈ l, s.pending m = true → (s.slot m).delay.toNat ≤ r) ∧ (r = a ∨ ∃ m ∈ l, s.pending m = true ∧
      r = (s.slot m).delay.toNat) := by
  induction l generalizing a with
  | nil => simp
  | cons x l ih =>
    simp only [List.foldl_cons]
    obtain ⟨h1, h2, h3⟩ := ih (if s.pending x then max a (s.slot x).delay.toNat else a)
    refine ⟨?_, ?_, ?_⟩
    · refine le_trans ?_ h1; split <;> simp
    · intro m hm hp
      rcases List.mem_cons.1 hm with rfl | hm
      · refine le_trans ?_ h1; simp [hp]
      · exact h2 m hm hp
    · rcases h3 with h3 | ⟨m, hm, hp, h⟩
      · rw [h3]
        split
        · rename_i hp
          rcases le_total a (s.slot x).delay.toNat with h | h
          · right; exact ⟨x, by simp, hp, by simp [h]⟩
          · left; simp [h]
        · left; rfl
      · right; exact ⟨m, List.mem_cons_of_mem _ hm, hp, h⟩

/-- With a motor pending, the tick's sleep is the delay of some pending motor and at least that of every one
(R200). -/
theorem maxPendingDelay_spec (s : State) (h : ∃ m, s.pending m = true) :
    (∀ m, s.pending m = true → (s.slot m).delay.toNat ≤ s.maxPendingDelay) ∧
    ∃ m, s.pending m = true ∧ s.maxPendingDelay = (s.slot m).delay.toNat := by
  obtain ⟨h1, h2, h3⟩ := foldl_maxDelay s allSlots 0
  refine ⟨fun m hm => h2 m (mem_allSlots m) hm, ?_⟩
  rcases h3 with h3 | ⟨m, _, hp, h⟩
  · obtain ⟨m, hm⟩ := h
    refine ⟨m, hm, ?_⟩
    have := h2 m (mem_allSlots m) hm
    unfold State.maxPendingDelay; omega
  · exact ⟨m, hp, h⟩

/-! ## One step of a motor (R169, R170) -/

theorem toInt_add_one {p : Position} (h : p.toInt < 2^63 - 1) : (p + 1).toInt = p.toInt + 1 := by
  rw [BitVec.toInt_add, Int.bmod_eq_of_le]
  · rfl
  · have := BitVec.le_toInt p; simp; omega
  · simp; omega

theorem toInt_sub_one {p : Position} (h : -2^63 < p.toInt) : (p - 1).toInt = p.toInt - 1 := by
  rw [BitVec.toInt_sub, Int.bmod_eq_of_le]
  · rfl
  · have := BitVec.le_toInt p; simp; omega
  · have := BitVec.toInt_lt (x := p); simp; omega

theorem posOf_ne_tgtOf {s : State} {m} (h : s.pending m = true) : s.posOf m ≠ s.tgtOf m := by
  intro hh; exact ((pending_iff s m).1 h).2 (BitVec.eq_of_toInt_eq hh)

/-- A pending motor's step toward its target never leaves the 64-bit range, and moves it by one (R170, R172). -/
theorem commitStep_pos {s : State} {m} (h : s.pending m = true) (x : Slot) (hp : x.pos = (s.slot m).pos)
    (hd : x.advDir = s.toward m) : x.commitStep.pos.toInt = s.steppedPos m := by
  have hne := posOf_ne_tgtOf h
  have h1 := BitVec.toInt_lt (x := (s.slot m).tgt)
  have h2 := BitVec.le_toInt (s.slot m).tgt
  unfold State.steppedPos Slot.commitStep
  rw [hd, hp]
  cases ht : s.toward m
  · simp [State.toward] at ht
    simp only [Bool.false_eq_true, if_false]
    rw [toInt_sub_one]; · rfl
    unfold State.posOf State.tgtOf at *; simp at h2; omega
  · simp [State.toward] at ht
    simp only [if_true]
    rw [toInt_add_one]; · rfl
    unfold State.posOf State.tgtOf at *; simp at h1; omega

/-! ## Workers (R211 to R214) -/

theorem emittingWorker_some {s : State} {e} (h : s.emittingWorker = some e) : s.isSlot e = true ∧
    (s.slot e).w = .emit := by
  have := List.find?_some h
  simpa using this

theorem emittingWorker_none {s : State} (h : s.emittingWorker = none) : ∀ m, s.isSlot m = true →
    (s.slot m).w ≠ .emit := by
  intro m hm hw
  have := List.find?_eq_none.1 h m (mem_allSlots m)
  simp [hm, hw] at this

theorem emittingWorker_eq_none {s : State} (hn : ∀ m, s.isSlot m = true → (s.slot m).w ≠ .emit) :
    s.emittingWorker = none := by
  apply List.find?_eq_none.2
  intro m _; simp; exact hn m

/-- A transition without an acknowledge leaves the motor as it was. -/
theorem workerStep_motor (s : State) (g m) (x : Slot) (e : Slot) (he : e = workerStep s false g m x) :
    e.reg = x.reg ∧ e.dirInv = x.dirInv ∧ e.half = x.half ∧
      e.bitOffset = x.bitOffset ∧ e.spr = x.spr ∧ e.delay = x.delay ∧ e.pos = x.pos ∧ e.tgt = x.tgt ∧
        e.adv = x.adv := by
  subst he
  unfold workerStep
  split <;> (repeat' split) <;> simp_all

theorem sameMotors_workersStep (s t : State) (g) : SameMotors t (workersStep s false g t) :=
  sameMotors_mapSlots _ _ fun m x => by
    obtain ⟨h1, h2, h3, h4, h5, h6, h7, h8, _⟩ := workerStep_motor s g m x _ rfl
    exact ⟨h1, h2, h3, h4, h5, h6, h7, h8⟩

theorem toNat_sub_one {x : Word} (h : 1 < x.toNat) : (x - 1).toNat = x.toNat - 1 := by
  rw [BitVec.toNat_sub]; have := x.isLt; simp; omega

/-- A worker is in W_EMIT after a transition only if it was, unanswered, or is granted now. -/
theorem workerStep_emit {s : State} {a : Bool} {g : Option SlotIx} {m : SlotIx} {x : Slot}
    (h : (workerStep s a g m x).w = .emit) :
    (x.w = .emit ∧ a = false ∧ workerStep s a g m x = x) ∨ (x.w = .req ∧ g = some m ∧ s.pending m = true) := by
  unfold workerStep at h ⊢
  split at h <;> (repeat' split at h) <;> simp_all

/-- A transition keeps the target, and moves the position only by the commit of an acknowledged emit. -/
theorem workerStep_pos {s : State} (a : Bool) (g m) (x : Slot) : (workerStep s a g m x).tgt = x.tgt ∧
    ((workerStep s a g m x).pos = x.pos ∨ a = true ∧ x.w = .emit ∧
    (workerStep s a g m x).pos = x.commitStep.pos) := by
  unfold workerStep
  split <;> (repeat' split) <;> simp_all [Slot.commitStep]

/-! ## The arbiter (R215, R216) -/

theorem foldl_closerCandidate (s : State) (l : List SlotIx) (b : Option SlotIx)
    (hb : ∀ g, b = some g → s.candidate g = true) :
    (∀ g, l.foldl s.closerCandidate b = some g → s.candidate g = true ∧
      (∀ j, b = some j → s.rrDistance g ≤ s.rrDistance j) ∧ ∀ j ∈ l, s.candidate j = true →
        s.rrDistance g ≤ s.rrDistance j) ∧
    (l.foldl s.closerCandidate b = none → b = none ∧ ∀ j ∈ l, s.candidate j = false) := by
  induction l generalizing b with
  | nil => exact ⟨fun g h => ⟨hb g h,
    fun j hj => by rw [List.foldl_nil] at h; rw [h] at hj; cases hj; exact le_rfl, by simp⟩, fun h => ⟨h, by simp⟩⟩
  | cons x l ih =>
    have step : (∀ g, s.closerCandidate b x = some g → s.candidate g = true ∧ (∀ j, b = some j →
      s.rrDistance g ≤ s.rrDistance j) ∧ (s.candidate x = true → s.rrDistance g ≤ s.rrDistance x)) ∧
      (s.closerCandidate b x = none → b = none ∧ s.candidate x = false) := by
      unfold State.closerCandidate
      cases hx : s.candidate x
      · exact ⟨fun g h => ⟨hb g h, fun j hj => by simp at h; rw [h] at hj; cases hj; exact le_rfl, by simp⟩,
        fun h => ⟨by simpa using h, rfl⟩⟩
      · cases b with
        | none => exact ⟨fun g h => by simp at h; subst h; exact ⟨hx, by simp, fun _ => le_rfl⟩, by simp⟩
        | some c =>
          simp only [if_true]
          split
          · rename_i hlt
            exact ⟨fun g h => by simp at h; subst h; exact ⟨hx, fun j hj => by cases hj; omega, fun _ => le_rfl⟩,
              by simp⟩
          · rename_i hlt
            exact ⟨fun g h => by simp at h; subst h; exact ⟨hb _ rfl, fun j hj => by cases hj; exact le_rfl,
              fun _ => by omega⟩, by simp⟩
    obtain ⟨i1, i2⟩ := ih (s.closerCandidate b x) (fun g h => (step.1 g h).1)
    refine ⟨?_, ?_⟩
    · intro g h
      obtain ⟨c1, c2, c3⟩ := i1 g h
      have some_or : s.closerCandidate b x = none ∨ ∃ k, s.closerCandidate b x = some k := by
        cases s.closerCandidate b x <;> simp
      rcases some_or with hn | ⟨k, hk⟩
      · obtain ⟨n1, n2⟩ := step.2 hn
        exact ⟨c1, by simp [n1], fun j hj hc => by
          rcases List.mem_cons.1 hj with rfl | hj
          · rw [n2] at hc; contradiction
          · exact c3 j hj hc⟩
      · obtain ⟨_, k2, k3⟩ := step.1 k hk
        have := c2 k hk
        refine ⟨c1, fun j hj => le_trans this (k2 j hj), fun j hj hc => ?_⟩
        rcases List.mem_cons.1 hj with rfl | hj
        · exact le_trans this (k3 hc)
        · exact c3 j hj hc
    · intro h
      obtain ⟨n1, n2⟩ := i2 h
      obtain ⟨m1, m2⟩ := step.2 n1
      refine ⟨m1, fun j hj => ?_⟩
      rcases List.mem_cons.1 hj with rfl | hj
      · exact m2
      · exact n2 j hj

/-- The arbiter's choice is a candidate, and none is closer to RR (R216). -/
theorem arbiterChoice_some {s : State} {g : SlotIx} (h : s.arbiterChoice = some g) :
    s.candidate g = true ∧ ∀ j, s.candidate j = true → s.rrDistance g ≤ s.rrDistance j := by
  obtain ⟨a, _, c⟩ := (foldl_closerCandidate s allSlots none (by simp)).1 g h
  exact ⟨a, fun j => c j (mem_allSlots j)⟩

theorem arbiterChoice_none {s : State} (h : s.arbiterChoice = none) (j : SlotIx) : s.candidate j = false :=
  ((foldl_closerCandidate s allSlots none (by simp)).2 h).2 j (mem_allSlots j)

theorem candidate_iff (s : State) (m) : s.candidate m = true ↔ s.pending m = true ∧ (s.slot m).w = .req := by
  simp [State.candidate]

theorem rrDistance_int (s : State) (m) (h : 0 < s.cfg.nMotors) :
    (s.rrDistance m : ℤ) = ((m.val : ℤ) - s.rr.val) % s.cfg.nMotors := by
  unfold State.rrDistance
  exact Int.toNat_of_nonneg (Int.emod_nonneg _ (by omega))

end Sys2Proof.Machine
end

