-- ==== Sys2Proof/Laws/Invariant.lean ====
section
/-! SUPPORT. First consequences of the invariant: what it depends on,
  and where a worker can have an emit in flight. -/

namespace Sys2Proof.Machine

/-- The invariant reads the parameters, the slots, the FSM state, the two words, the sleep counter and length, and the
two pointers, and nothing else. -/
theorem Invariant.congr {s t : State} (h : Invariant s) (hc : t.cfg = s.cfg) (hs : t.slots = s.slots)
    (hf : t.fsm = s.fsm) (ho : t.out = s.out) (hd : t.emitData = s.emitData) (h1 : t.sleepCnt = s.sleepCnt)
    (h2 : t.sleepLen = s.sleepLen) (hr : t.rr = s.rr) (he : t.emot = s.emot) : Invariant t := by
  have sm := sameMotors_of_slots hc hs
  have sl := fun m => slot_congr hs m
  constructor
  · rw [hc]; exact h.cfg
  · intro m; rw [sl, sm.isSlot]; exact h.absent m
  · intro m; rw [sl, sm.registered, hc]; exact h.calibrated m
  · intro m j; rw [sl, sl, sm.registered, sm.registered]; exact h.disjoint m j
  · intro m; rw [sl, he]; exact h.oneEmit m
  · rw [hf]; intro hf m; rw [sl]; exact h.workersRest hf m
  · intro m; rw [sl]; exact h.workerSleep m
  · rw [hf, h1, h2]; exact h.timer
  · rw [hf, h2]; exact h.tickSleep
  · intro m; rw [sl, hf, sm.pending]; exact h.advSet m
  · rw [hf]; intro hf m; rw [sl, sm.pending, sm.toward]; exact h.tickDir hf m
  · intro m; rw [sl, sm.pending, sm.toward]; exact h.workerDir m
  · rw [hf, hd, he, sm.compose, funext sm.tickPos]; exact h.tickWord
  · intro m; rw [sl, hd, sm.patch ho, sm.steppedPos]; exact h.workerWord m
  · rw [hf, hd, he, sm.holdingWord]; intro hf; obtain ⟨a, b⟩ :=
    h.holding hf; exact ⟨fun m => by rw [sm.pending]; exact a m, b⟩
  · rw [ho, hd, hc]; exact h.width
  · rw [sm.isSlot, sm.isSlot, hr, he]; exact h.pointers

/-- A slot that does not exist has no active worker. -/
theorem Invariant.absent_idle {s : State} (h : Invariant s) {m} (hm : s.isSlot m = false) : (s.slot m).w = .idle :=
    by rw [h.absent m hm]; rfl

/-- While no emit is in flight no worker is in W_EMIT. -/
theorem Invariant.no_worker_emit {s : State} (h : Invariant s) (he : s.emitting = false) : ∀ m,
    (s.slot m).w ≠ .emit := by
  intro m hm
  by_cases hi : s.isSlot m = true
  · by_cases hf : s.fsm = .runb
    · have : s.anyWorkerEmitting = true := (anyWorkerEmitting_iff s).2 ⟨m, hi, hm⟩
      simp [State.emitting, hf, this] at he
    · rw [h.workersRest hf m] at hm; contradiction
  · rw [h.absent m (by simpa using hi)] at hm; simp [Slot.reset] at hm

/-- The worker in W_EMIT is the one the engine finds (R213). -/
theorem Invariant.emittingWorker_eq {s : State} (h : Invariant s) {e} (he : (s.slot e).w = .emit) :
    s.emittingWorker = some e := by
  have hs : s.isSlot e = true := by
    by_contra hc; rw [h.absent_idle (by simpa using hc)] at he; contradiction
  have : s.emittingWorker.isSome = true := by
    rw [emittingWorker_isSome]; exact (anyWorkerEmitting_iff s).2 ⟨e, hs, he⟩
  obtain ⟨k, hk⟩ := Option.isSome_iff_exists.1 this
  have := (emittingWorker_some hk).2
  rw [hk, ← h.oneEmit k this, h.oneEmit e he]

/-- A composed word has no bit beyond OUT_WIDTH. -/
theorem compose_mask (s : State) (h : s.cfg.WF) (P) : s.compose P &&& outMask s.cfg = s.compose P := by
  apply BitVec.eq_of_getLsbD_eq
  intro i hi
  rw [BitVec.getLsbD_and, getLsbD_outMask (outWidth_le h)]
  by_cases hb : i < s.cfg.outWidth
  · simp [hb]
  · have : (s.compose P).getLsbD i = false := by
      rw [← Bool.not_eq_true, getLsbD_compose]
      rintro ⟨m, _, hm⟩
      rw [getLsbD_shifted s m _ _ h] at hm
      simp [hb] at hm
    simp [this]

end Sys2Proof.Machine
end

