-- ==== Sys2Proof/Laws/PerInstr.lean ====
section
/-! SUPPORT. What holds of every command as syntax, one lemma per constructor. -/

namespace Sys2Proof.Laws.EncodedOpcode

/-- The encoding of a command a word can express carries in OP the opcode of its table row (R112). -/
def Statement : Instr → Prop
  | .nop => (opField (encode .nop)).toNat = 0x0
  | .configure m off dinv half => off < 256 → (opField (encode (.configure m off dinv half))).toNat = 0x1
  | .release m => (opField (encode (.release m))).toNat = 0x2
  | .zero m => (opField (encode (.zero m))).toNat = 0x3
  | .setTarget m => (opField (encode (.setTarget m))).toNat = 0x4
  | .run m => (opField (encode (.run m))).toNat = 0x5
  | .wrnib m => (opField (encode (.wrnib m))).toNat = 0x6

theorem nop : Statement .nop := opField_cmdWord _ _ _ (by decide) (by decide)

theorem configure (m : SlotIx) (off : Nat) (dinv half : Bool) : Statement (.configure m off dinv half) :=
  fun h => opField_cmdWord _ _ _ (by decide) h

theorem release (m : SlotIx) : Statement (.release m) := opField_cmdWord _ _ _ (by decide) (by decide)

theorem zero (m : SlotIx) : Statement (.zero m) := opField_cmdWord _ _ _ (by decide) (by decide)

theorem setTarget (m : SlotIx) : Statement (.setTarget m) := opField_cmdWord _ _ _ (by decide) (by decide)

theorem run (m : SlotIx) : Statement (.run m) := opField_cmdWord _ _ _ (by decide) (by decide)

theorem wrnib (m : SlotIx) : Statement (.wrnib m) := opField_cmdWord _ _ _ (by decide) (by decide)

end Sys2Proof.Laws.EncodedOpcode
end

