-- ==== Sys2Proof/Laws/Run.lean ====
section
/-! SUPPORT. Runs of several edges: a run goes on by one step, runs add up, and an edge of a host that presents
nothing or a read is the engine step alone but for SNAP. -/

namespace Sys2Proof.Machine

theorem step_next (s : State) : ∃ t, step s = .next t := by
  cases hr : s.pin.rst
  · obtain ⟨s1, h1⟩ := hostTransaction_next s
    exact ⟨_, step_eq hr h1⟩
  · exact ⟨_, step_of_reset hr⟩

theorem run_succ {s t : State} (h : step s = .next t) (k : Nat) :
    Sys2Proof.core.run (k+1) s = Sys2Proof.core.run k t := by
  refine (Host.Core.run.eq_2 Sys2Proof.core s k).trans ?_
  rw [show Sys2Proof.core.step s = Host.Outcome.next t from h]

theorem run_add {s t : State} {a : Nat} (h : Sys2Proof.core.run a s = .next t) (b : Nat) :
    Sys2Proof.core.run (a+b) s = Sys2Proof.core.run b t := by
  induction a generalizing s with
  | zero => 
    have : s = t := Host.Outcome.next.inj h
    rw [this, Nat.zero_add]
  | succ a ih =>
    rw [show a + 1 + b = (a + b) + 1 by omega]
    cases hs : step s with
    | next u => rw [run_succ hs] at h ⊢; exact ih h
    | fault r => cases r
    | refused r =>
      obtain ⟨t', ht⟩ := step_next s
      rw [ht] at hs; cases hs

theorem pin_rst {s : State} (h : ∀ p ∈ s.pins, p.rst = false) : s.pin.rst = false := by
  unfold State.pin
  cases hp : s.pins with
  | nil => rfl
  | cons a l => exact h a (by simp [hp])

theorem step_of_no_host {s : State} (hh : s.host = []) (hr : s.pin.rst = false) :
    step s = .next (advance s (engineStep s.fsm s.pin s)) :=
  step_of_idle hr (by simp [State.request, hh])

/-- A read changes SNAP at most (R83). -/
theorem readEffect_eq (a : Addr) (s : State) : ∃ x, readEffect a s = surround s s.pins s.host s.edge x := by
  simp only [readEffect]
  split <;> exact ⟨_, rfl⟩

/-- An edge at which the host presents nothing or a read is the engine step alone but for SNAP. -/
theorem step_of_read {s : State} (hr : s.pin.rst = false) (hq : s.request = .idle ∨ ∃ a, s.request = .read a) :
    ∃ x, step s = .next (surround (engineStep s.fsm s.pin s) s.pins.tail s.host.tail (s.edge + 1) x) := by
  rcases hq with hq | ⟨a, hq⟩
  · exact ⟨(engineStep s.fsm s.pin s).snap, by rw [step_of_idle hr hq, advance, hostAfter_of_idle hq]; rfl⟩
  · have ha : s.accepted = true := by simp [State.accepted, State.busReady, hq, BusCycle.valid, BusCycle.isCmdWrite]
    obtain ⟨x, hx⟩ := readEffect_eq a s
    refine ⟨x, ?_⟩
    rw [step_eq hr (s1 := readEffect a s) (hostTransaction_of_read hq), hx, engineStep_surround]
    simp [advance, surround, State.hostAfter, hq, ha, hr]

theorem advance_host_nil {s u : State} (hh : s.host = []) : (advance s u).host = [] := by simp [State.hostAfter,
    State.request, hh]

end Sys2Proof.Machine
end

