-- ==== Sys2Proof/Tests/Slice0.lean ====
section
/-! SUPPORT. Tests of one edge or one function each, their expected values from spec/95_test_vectors.md and the worked
words of spec/30_encoding.md; and for every obligation with hypotheses a witness that meets them, clause by clause. -/

namespace Sys2Proof.Tests

open Sys2Proof Sys2Proof.Machine Sys2Proof.Claims

/- One theorem at a time: `decide +kernel` waits for the kernel, and many waiting theorems exhaust the threads. -/
set_option Elab.async false

/-! ## Sample states -/

/-- A registered motor with 200 steps per revolution. -/
def motor (off : BitVec 8) (delay : Word) (pos tgt : Position) : Slot :=
  { Slot.reset with reg := true, bitOffset := off, spr := 200, delay := delay, pos := pos, tgt := tgt }

/-- The default machine with two slots and an FSM state. -/
def withMotors (f : Fsm) (x0 x1 : Slot) : State := State.setSlot (State.setSlot { State.reset with fsm :=
  f } 0 x0) 1 x1

/-- Vector A2 before its first tick: slot 0 goes to +2 with delay 7, slot 1 to -4 with delay 3. -/
def pairAt (f : Fsm) : State := withMotors f (motor 0 7 0 2) (motor 4 3 0 (-4))

/-- Two motors at their targets. -/
def restAt (f : Fsm) : State := withMotors f (motor 0 7 0 0) (motor 4 3 5 5)

/-- A test of the next state of an outcome; a stop fails it. -/
def onNext (o : Host.Outcome State Fault Refusal) (p : State → Bool) : Bool :=
  match o with
  | .next t => p t
  | _ => false

/-- One step with the given pins and bus cycle. -/
def edge (s : State) (p : Pins) (c : BusCycle) (q : State → Bool) : Bool :=
  onNext (step { s with pins := [p], host := [c] }) q

def acked : Pins := ⟨false, true, false⟩
def failed : Pins := ⟨false, false, true⟩

/-! ## WellFormed: each check refuses an ill-formed term -/

theorem test_wellformed_refuses_offset_256 : (Instr.configure 0 256 false false).WellFormed = false := by decide

theorem test_wellformed_admits_offset_255 : (Instr.configure 15 255 true true).WellFormed = true := by decide

/-! ## Decoding: words written out from the field table of R111 and the opcodes of R112 -/

theorem test_decode_nop : decode 0b00000000000000000000000000000000#32 = .ok .nop := by decide

/-- 95_test_vectors.md 2.1: CONFIGURE m=1, off=4, half, inverted. -/
theorem test_decode_configure : decode 0b00000011000001000000000100000001#32 = .ok (.configure 1 4 true true) :=
    by decide

/-- 95_test_vectors.md 2.1: CONFIGURE m=0, off=12, full. -/
theorem test_decode_configure_offset : decode 0x000C0001#32 = .ok (.configure 0 12 false false) := by decide

theorem test_decode_release : decode 0b00000000000000000000000100000010#32 = .ok (.release 1) := by decide

theorem test_decode_zero : decode 0b00000000000000000000111100000011#32 = .ok (.zero 15) := by decide

/-- 95_test_vectors.md 2.1: SET_TARGET m=0 with reserved bits set. -/
theorem test_decode_setTarget_reserved_bits : decode 0xFC00F0F4#32 = .ok (.setTarget 0) := by decide

theorem test_decode_setTarget : decode 0b00000000000000000000100000000100#32 = .ok (.setTarget 8) := by decide

/-- 95_test_vectors.md 2.1: RUN with MOTOR field 3. -/
theorem test_decode_run : decode 0b00000000000000000000001100000101#32 = .ok (.run 3) := by decide

theorem test_decode_wrnib : decode 0b00000000000000000000001000000110#32 = .ok (.wrnib 2) := by decide

/-- 95_test_vectors.md 2.1: a reserved opcode. -/
theorem test_decode_reserved : decode 0x0000000F#32 = .error (.reservedOpcode 15 0) := by decide

theorem test_decodeTableWord : decodeTableWord 32 0x02040101 = some (.configure 1 4 false true) := by decide

/-! ## The angle comparator (95_test_vectors.md 1 and 2.2) -/

theorem test_shortestDelta : shortestDelta 10 200 = -170 ∧ shortestDelta 350 10 = 20 ∧ shortestDelta 0 180 = 180 ∧
    shortestDelta 180 0 = 180 := by decide +kernel

theorem test_degreesToSteps : degreesToSteps 180 201 = 101 ∧ degreesToSteps (-9 / 10) 200 = -1 ∧
    degreesToSteps (-162) 200 = -90 ∧ degreesToSteps 1 4096 = 11 := by decide +kernel

theorem test_cmpDelta : cmpDelta (-10) 200 180 = -90 ∧ cmpDelta 0 201 180 = 101 ∧ cmpDelta 1234567 200 0 = 33 ∧
    cmpDelta 3 200 (9 / 2) = -1 := by decide +kernel

/-- The binary64 nearest 0.9 lies above 0.9, so it is one step of 200 (2.1). -/
theorem test_f64_above_tie : degreesToSteps (f64Value 0x3FECCCCCCCCCCCCD#64) 200 = 1 := by decide +kernel

/-! ## The phase sequencer (2.3) -/

theorem test_pattern_inverted_half :
    [-2, -1, 0, 1, 3].map (({ Slot.reset with dirInv := true, half := true } : Slot).pattern Config.default) =
      [0x2, 0x3, 0x1, 0x9, 0xC] := by decide

theorem test_pattern_full : [-2, -1, 0, 1, 4].map (Slot.reset.pattern Config.default) = [0xC, 0x9, 0x3, 0x6,
    0x3] := by
  decide

/-! ## Commands, one step each from a CMD write -/

/-- Vector C2: CONFIGURE 1, 4, 400, 1, inverted, half, as the first command after reset. -/
theorem test_step_configure :
    onNext (step (State.withFetchWord { State.reset with argLo := 400, argHi := 1 } 32 0x03040101)) (fun t =>
      decide (readReg t 0x140#12 = 0x00000407#32 ∧ readReg t 0x144#12 = 400#32 ∧
        readReg t 0x148#12 = 1#32)) = true := by
  decide +kernel

/-- Vector C6: BAD_MOTOR beats SPR_ZERO. -/
theorem test_step_configure_refused :
    onNext (step (State.withFetchWord { State.reset with argHi := 1 } 32 0x00000F01)) (fun t =>
      decide (statusWord t = 0x000F2008#32)) = true := by decide +kernel

/-- Vector C26: RELEASE keeps SPR, DELAY, POS and TGT. -/
theorem test_step_release : edge (restAt .idle) Pins.quiet (.write 0x010 0x00000102) (fun t =>
    decide (readReg t 0x140#12 = 0x00000400#32 ∧ (t.slot 1).spr = 200 ∧ (t.slot 1).pos = 5)) = true :=
      by decide +kernel

/-- Vector C25: ZERO with POS = 37. -/
theorem test_step_zero :
    edge (withMotors .idle (motor 0 1 37 50) (motor 4 3 5 5)) Pins.quiet (.write 0x010 0x00000003) (fun t =>
      decide ((t.slot 0).pos = 0 ∧ (t.slot 0).tgt = 0 ∧ (t.slot 1).pos = 5)) = true := by decide +kernel

/-- Program P1: 90 degrees is 50 steps of 200. -/
theorem test_step_setTarget :
    edge { restAt .idle with argHi := 0x40568000 } Pins.quiet (.write 0x010 0x00000004) (fun t =>
      decide ((t.slot 0).tgt = 50 ∧ (t.slot 0).pos = 0)) = true := by decide +kernel

/-- Vector C19: POS_RANGE at 2^63 - 10. -/
theorem test_step_setTarget_range :
    edge { withMotors .idle (motor 0 1 0x7FFFFFFFFFFFFFF6 0x7FFFFFFFFFFFFFF6) (motor 4 3 5 5) with argHi :=
      0x40568000 }
      Pins.quiet (.write 0x010 0x00000004) (fun t =>
        decide (statusWord t = 0x0000A008#32 ∧ (t.slot 0).tgt = 0x7FFFFFFFFFFFFFF6)) = true := by decide +kernel

/-- Vector A7: RUN starts Discipline A, and changes nothing while CFG_ERR = 1. -/
theorem test_step_run : edge (pairAt .idle) Pins.quiet (.write 0x010 0x00000005)
    (fun t => decide (t.fsm = .eval)) = true ∧
    edge { pairAt .idle with cfgErr := true } Pins.quiet (.write 0x010 0x00000005) (fun t =>
      decide (t.fsm = .idle)) = true := by decide +kernel

/-- RUN in Discipline B (R195). -/
theorem test_step_run_b : edge { pairAt .idle with mode := .b, rr := 1 } Pins.quiet (.write 0x010 0x00000005)
    (fun t =>
    decide (t.fsm = .runb ∧ t.rr = 0 ∧ t.runMode = .b)) = true := by decide +kernel

/-- Vector O3: WRNIB 1 with slot 1 half-step and inverted at offset 4 emits 0x10. -/
theorem test_step_wrnib :
    edge (withMotors .idle (motor 0 3 0 0) { motor 4 1 0 0 with dirInv := true, half := true }) Pins.quiet
      (.write 0x010 0x00000106) (fun t => decide (t.emitData = 0x10#32 ∧ t.fsm = .patch ∧ t.emot = 1)) = true := by
  decide +kernel

/-- Vector C23: WRNIB of a slot that does not exist. -/
theorem test_step_wrnib_refused : edge State.reset Pins.quiet (.write 0x010 0x00000306) (fun t =>
    decide (statusWord t = 0x00032008#32)) = true := by decide +kernel

theorem test_step_nop : edge (pairAt .idle) Pins.quiet (.write 0x010 0x00000000) (fun t =>
    decide ({ t with pins := [], host := [], edge := 0 } = pairAt .idle)) = true := by decide +kernel

/-- Vector C3: a reserved opcode. -/
theorem test_step_reserved : edge State.reset Pins.quiet (.write 0x010 0x00000107) (fun t =>
    decide (statusWord t = 0x00011008#32)) = true := by decide +kernel

/-! ## The engine, one edge each -/

/-- Vector A2: the first tick's word is 0x96 and its sleep 7. -/
theorem test_eval : edge (pairAt .eval) Pins.quiet .idle (fun t =>
    decide (t.emitData = 0x96#32 ∧ t.sleepLen = 7 ∧ t.fsm = .emit ∧ (t.slot 0).pos = 0)) = true := by decide +kernel

/-- Vector A3: the first patched word is 0x06, since OUT was 0. -/
theorem test_grant :
    edge (withMotors .runb { motor 0 7 0 2 with w := .req } { motor 4 3 0 (-4) with w := .req }) Pins.quiet .idle
      (fun t => decide (t.emitData = 0x06#32 ∧ t.emot = 0 ∧ t.rr = 1 ∧ (t.slot 1).w = .req)) = true :=
        by decide +kernel

/-- Vector E1: a failed WRNIB emit of slot 1. -/
theorem test_emit_error : edge { restAt .patch with emot := 1 } failed .idle (fun t =>
    decide (statusWord t = 0x0001B010#32 ∧ t.out = 0)) = true := by decide +kernel

/-- A WRNIB's RUN waits for the emit: the write is held (R221). -/
theorem test_cmd_held : edge (restAt .patch) Pins.quiet (.write 0x010 0x00000005) (fun t =>
    decide (t.fsm = .patch ∧ t.host = [.write 0x010 0x00000005])) = true := by decide +kernel

/-! ## The bus (2.8) -/

/-- A write to ARG_HI is accepted while a tick's emit is in flight (R81, R84). -/
theorem test_step_write_arg : edge (pairAt .emit) Pins.quiet (.write 0x018 0x40568000) (fun t =>
    decide (t.argHi = 0x40568000 ∧ t.fsm = .emit ∧ t.host = [])) = true := by decide +kernel

/-- A write to CTRL during a run writes the enables and leaves MODE (R35). -/
theorem test_step_write_ctrl : edge (pairAt .sleep) Pins.quiet (.write 0x004 0x00000301) (fun t =>
    decide (readReg t 0x004#12 = 0x00000300#32)) = true := by decide +kernel

/-- A W1C write of IO_ERR at an edge of a run clears it and leaves CFG_ERR and the recorded code (R37). -/
theorem test_step_write_status :
    edge { pairAt .sleep with ioErr := true, cfgErr := true, errCode := .busy } Pins.quiet (.write 0x008 0x00000010)
      (fun t => decide (t.ioErr = false ∧ t.cfgErr = true ∧ t.errCode = .busy)) = true := by decide +kernel

/-- Vectors B1, B2 and B7. -/
theorem test_reads : readReg State.reset 0x000#12 = 0x00000802#32 ∧ readReg State.reset 0x030#12 = 0 ∧
    readReg State.reset 0x180#12 = 0 ∧ readReg State.reset 0x010#12 = 0 := by decide +kernel

/-- 95_test_vectors.md 2.3: MSTATE of slot 0 at POS = 1 with TGT = 50. -/
theorem test_mstate : readReg (withMotors .idle (motor 0 2 1 50) Slot.reset) 0x10C#12 = 0x00000361#32 :=
    by decide +kernel

/-- Vector B5: the two halves of TGT = -10. -/
theorem test_halves : loWord (-10) = 0xFFFFFFF6#32 ∧ hiWord (-10) = 0xFFFFFFFF#32 := by decide

/-! ## Witnesses: for each obligation with hypotheses, states and operands that meet them -/

theorem witness_DecodeReadsBackEveryEncodedCommand :
    (Instr.configure 15 255 true true).WellFormed = true ∧ (Instr.run 15).WellFormed = true := by decide

theorem witness_DecodingIsTotalAndReadsTheFieldTable :
    bits 0xFC0000F0#32 3 0 = 0 ∧ bits 0x03FF0F01#32 3 0 = 1 ∧ bits 0xF02#32 3 0 = 2 ∧ bits 0xF03#32 3 0 = 3 ∧
      bits 0xF04#32 3 0 = 4 ∧ bits 0xF05#32 3 0 = 5 ∧ bits 0xF06#32 3 0 = 6 ∧ 7 ≤ bits 0x7#32 3 0 ∧
      7 ≤ bits 0xFFFFFFFF#32 3 0 := by decide

theorem witness_IgnoredBitsNeverChangeACommand :
    bits 0xFC00F0F4#32 3 0 < 7 ∧ 0xFC00F0F4#32 &&& usedBits 4 = 0x00000004#32 &&& usedBits 4 ∧
      bits 0xFFFFFFF5#32 3 0 = 5 ∧ State.reset.busy = false ∧
      0xFFFFFFF5#32 &&& usedBits 5 = 0x00000005#32 &&& usedBits 5 := by decide +kernel

theorem witness_ReservedOpcodesRecordBadOpcode : 7 ≤ bits 0x107#32 3 0 ∧ 7 ≤ bits 0xF#32 3 0 := by decide

/-- A subnormal, the smallest normal and the largest finite operand. -/
theorem witness_AngleOperandHasItsBinary64Value :
    (1#64).toNat / 2 ^ 52 % 2 ^ 11 = 0 ∧ (0x0010000000000000#64).toNat / 2 ^ 52 % 2 ^ 11 = 1 ∧
      (0xFFEFFFFFFFFFFFFF#64).toNat / 2 ^ 52 % 2 ^ 11 = 0x7FE ∧
      (0x7FF0000000000000#64).toNat / 2 ^ 52 % 2 ^ 11 = 0x7FF := by decide

theorem witness_ShortestDeltaReachesTheTargetTheShortWay :
    normalizeAngle (200 - 10 + 180) - 180 ≠ -180 ∧ ∃ n : ℤ, (180 : ℚ) - 0 = 180 * (2 * n + 1) :=
  ⟨by decide +kernel, 0, by norm_num⟩

theorem witness_DegreesToStepsRoundsHalfAwayFromZero :
    0 < 200 ∧ |(9 / 10 : ℚ) * (200 : Nat) / 360 - degreesToSteps (9 / 10) 200| = 1 / 2 := by
  rw [show degreesToSteps (9 / 10) 200 = 1 by decide +kernel]
  norm_num

theorem witness_ComparatorEqualsItsStepDomainForm : (0 : Nat) < 1 := by decide

theorem witness_ComparatorDeltaIsAtMostHalfARevolution : (0 : Nat) < 1 := by decide

/-- The three cases of the repeated target: 90 degrees is no tie, 4.5 degrees is one, and so is 180 with one step. -/
theorem witness_RepeatedTargetMovesOnlyAtAHalfStepTie :
    ¬ halfStepTie 90 200 ∧ (halfStepTie (9 / 2) 200 ∧ 1 < 200) ∧ halfStepTie 180 1 := by
  refine ⟨?_, ⟨⟨2, by norm_num [stepTarget]⟩, by decide⟩, ⟨0, by norm_num [stepTarget]⟩⟩
  rintro ⟨n, hn⟩
  have h : (100 : ℚ) = ((2 * n + 1 : ℤ) : ℚ) := by
    norm_num [stepTarget] at hn
    push_cast
    linarith
  have : (100 : ℤ) = 2 * n + 1 := by exact_mod_cast h
  omega

theorem witness_TargetIsTheAngleModuloOneRevolution : ¬ halfStepTie 90 200 ∧ halfStepTie (9 / 2) 200 :=
  ⟨witness_RepeatedTargetMovesOnlyAtAHalfStepTie.1, witness_RepeatedTargetMovesOnlyAtAHalfStepTie.2.1.1⟩

theorem witness_CoilPatternReadsTheTableAtThePhase :
    Slot.reset.dirInv = false ∧ Slot.reset.half = false ∧ (-1 : ℤ) % 4 = (3 : Fin 4).val ∧
      (-1 : ℤ) % 8 = (7 : Fin 8).val ∧ ({ Slot.reset with half := true } : Slot).half = true ∧
      ({ Slot.reset with dirInv := true } : Slot).dirInv = true := by decide

/-- Slot 1 registered at offset 4, slot 0 constructed at offset 0. -/
theorem witness_ConfigureConstructsTheMotor :
    let s := { restAt .idle with argLo := 1, argHi := 1 }
    (0 : SlotIx).val < s.cfg.nMotors ∧ s.busy = false ∧ s.argLo ≠ 0 ∧ s.argHi ≠ 0 ∧ 0 % 4 = 0 ∧
      0 + 4 ≤ s.cfg.outWidth ∧ ∀ j : SlotIx, j ≠ 0 → s.registered j = true → (s.slot j).bitOffset.toNat ≠ 0 := by
  decide +kernel

theorem witness_ReleaseUnregistersTheMotor :
    (1 : SlotIx).val < (restAt .idle).cfg.nMotors ∧ (restAt .idle).busy = false ∧
      ((restAt .idle).slot 1).reg = true := by
  decide +kernel

theorem witness_ZeroSetsPositionAndTargetToZero :
    (1 : SlotIx).val < (restAt .sleep).cfg.nMotors ∧ ((restAt .sleep).slot 1).reg = true := by decide +kernel

/-- 90 degrees, and the new target within range. -/
theorem witness_SetTargetTakesTheShortestPath :
    let s := { restAt .idle with argHi := 0x40568000 }
    (0 : SlotIx).val < s.cfg.nMotors ∧ (s.slot 0).reg = true ∧ (s.slot 0).spr ≠ 0 ∧
      f64IsFinite (s.argHi ++ s.argLo) = true ∧
      s.posOf 0 + degreesToSteps (shortestDelta (stepsToDegrees (s.posOf 0 % ((s.slot 0).spr.toNat : ℤ))
        (s.slot 0).spr.toNat) (normalizeAngle (f64Value (s.argHi ++ s.argLo)))) (s.slot 0).spr.toNat = 50 := by
  decide +kernel

/-- Each check of each command, refused by it in some state. -/
theorem witness_RefusedCommandsRecordTheFirstFailingCheck :
    (∀ m, (restAt .eval).registered m = true → ((restAt .eval).slot m).spr ≠ 0) ∧
      runSuppressed { State.reset with ioErr := true } (.run 3) = true ∧
      firstFailing (checks State.reset (.run 3)) = none ∧ 7 ≤ bits 0x00000007#32 3 0 ∧
      firstFailing (checks State.reset (.configure 2 0 false false)) = some .badMotor ∧
      firstFailing (checks (restAt .eval) (.configure 0 0 false false)) = some .busy ∧
      firstFailing (checks State.reset (.configure 0 0 false false)) = some .sprZero ∧
      firstFailing (checks { State.reset with argLo := 200 } (.configure 0 0 false false)) = some .delayZero ∧
      firstFailing (checks { State.reset with argLo := 200, argHi := 1 } (.configure 0 8 false false)) =
        some .badOffset ∧
      firstFailing (checks { restAt .idle with argLo := 200, argHi := 1 }
        (.configure 1 0 false false)) = some .overlap ∧
      firstFailing (checks State.reset (.release 1)) = some .notRegistered ∧
      firstFailing (checks State.reset (.zero 0)) = some .notRegistered ∧
      firstFailing (checks { restAt .idle with argHi := 0x7FF00000 } (.setTarget 0)) = some .notFinite ∧
      firstFailing (checks { withMotors .idle (motor 0 1 0x7FFFFFFFFFFFFFF6 0) Slot.reset with argHi := 0x40568000 }
        (.setTarget 0)) = some .posRange ∧
      firstFailing (checks (restAt .eval) (.run 0)) = some .busy ∧ runSuppressed (restAt .eval) (.run 0) = false ∧
      firstFailing (checks State.reset (.wrnib 3)) = some .badMotor := by decide +kernel

theorem witness_CommandsLeaveTheRestUnchanged :
    namedSlot (.zero 0) ≠ some 1 ∧ (∀ m, Instr.nop ≠ .run m ∧ Instr.nop ≠ .wrnib m) := by decide

theorem witness_NopChangesNothing : bits 0xFFFFFFF0#32 3 0 = 0 := by decide

theorem witness_RunStartsTheSelectedDiscipline :
    ({ State.reset with ioErr := true } : State).ioErr = true ∧
      ((restAt .eval).cfgErr = false ∧ (restAt .eval).ioErr = false ∧ (restAt .eval).busy = true) ∧
      (State.reset.cfgErr = false ∧ State.reset.ioErr = false ∧ State.reset.busy = false ∧ State.reset.mode = .a) ∧
      ({ State.reset with mode := .b } : State).busy = false ∧ ({ State.reset with mode := .b } :
        State).mode = .b := by
  decide +kernel

theorem witness_TransactionFirstEngineSecond :
    (∃ s1, hostTransaction State.reset = .next s1) ∧ State.reset.pin.rst = false ∧ State.reset.fsm = .idle ∧
      (∃ s1, hostTransaction (pairAt .eval) = .next s1) ∧ (pairAt .eval).pin.rst = false ∧
        (pairAt .eval).fsm ≠ .idle :=
  ⟨hostTransaction_next _, by decide, by decide, hostTransaction_next _, by decide +kernel, by decide +kernel⟩

/-- The same clauses' requests: nothing, a read and a write to ARG during an emit, a write to CMD with no emit in flight,
and a held one. -/
theorem witness_TransactionFirstEngineSecond_requests :
    (pairAt .emit).request = .idle ∧
      ({ pairAt .emit with host := [.read 0x110] } : State).request = .read 0x110 ∧
      ({ pairAt .emit with host := [.write 0x014 1] } : State).request = .write 0x014 1 ∧
      0x014#12 &&& 0xFFC#12 ≠ 0x010#12 ∧
      ({ pairAt .sleep with host := [.write 0x010 5] } : State).request = .write 0x010 5 ∧
      (pairAt .sleep).emitting = false ∧
      ({ pairAt .emit with host := [.write 0x010 5] } : State).request = .write 0x010 5 ∧
      0x010#12 &&& 0xFFC#12 = 0x010#12 ∧ (pairAt .emit).emitting = true := by decide +kernel

theorem witness_StepRunsTheDecodedCommand :
    let s := { pairAt .sleep with host := [.write 0x013 0x00000003] }
    s.pin.rst = false ∧ s.emitting = false ∧ 0x013#12 &&& 0xFFC#12 = 0x010#12 ∧
      decode 0x00000003#32 = .ok (.zero 0) ∧ ∃ t, exec (.zero 0) s = .next t :=
  ⟨by decide +kernel, by decide +kernel, by decide, by decide, exec_next _ _⟩

/-- The first and the last reserved opcode. -/
theorem witness_StepRunsTheDecodedCommand_reserved :
    let s := { pairAt .sleep with host := [.write 0x013 0x00000107] }
    s.pin.rst = false ∧ s.emitting = false ∧ s.host = .write 0x013 0x00000107 :: [] ∧
      0x013#12 &&& 0xFFC#12 = 0x010#12 ∧ 7 ≤ bits 0x00000107#32 3 0 ∧ 7 ≤ bits 0x0000010F#32 3 0 := by decide +kernel

/-- A write to ARG while an emit is in flight, a write to CMD with none in flight, and one that waits. -/
theorem witness_OnlyCommandWritesWaitAndOnlyForAnEmit :
    (pairAt .emit).pin.rst = false ∧ (BusCycle.write 0x014 0 ≠ .idle ∧
      ∀ a v, BusCycle.write 0x014 0 = .write a v → a &&& 0xFFC#12 ≠ 0x010#12) ∧ State.reset.emitting = false ∧
      (0x010#12 &&& 0xFFC#12 = 0x010#12 ∧ (pairAt .emit).emitting = true) := by
  refine ⟨by decide +kernel, ⟨by decide, ?_⟩, by decide, by decide, by decide +kernel⟩
  rintro a v h
  cases h
  decide

theorem witness_EvalWithNothingPendingEmitsTheHoldingWord :
    (restAt .eval).pin.rst = false ∧ (restAt .eval).request = .idle ∧ (restAt .eval).fsm = .eval ∧
      ∀ m, (restAt .eval).pending m = false := by decide +kernel

theorem witness_EvalIssuesOneStepOfEveryPendingMotor :
    (pairAt .eval).pin.rst = false ∧ (pairAt .eval).request = .idle ∧ (pairAt .eval).fsm = .eval ∧
      ∃ m, (pairAt .eval).pending m = true := by decide +kernel

theorem witness_TickCommitsOnlyOnAcknowledge :
    ∀ p ∈ [failed, acked, Pins.quiet], ({ pairAt .emit with pins := [p] } : State).pin = p ∧ p.rst = false ∧
      ({ pairAt .emit with pins := [p] } : State).request = .idle ∧ (pairAt .emit).fsm = .emit := by decide +kernel

/-- One cycle of sleep, and two, with a command presented in it. -/
theorem witness_SleepLastsExactlyItsCount :
    (({ pairAt .sleep with sleepCnt := 1 } : State).fsm = .sleep ∧ (1#32).toNat = 1) ∧
      (({ pairAt .sleep with sleepCnt := 2, host := [.write 0x010 3] } : State).fsm = .sleep ∧ (2#32).toNat = 2) ∧
      ∀ p ∈ (pairAt .sleep).pins, p.rst = false := by decide +kernel

/-! The states of the invariant's statements -/

theorem pairAt_eval_invariant : Invariant (pairAt .eval) := by constructor <;> decide +kernel

theorem pairAt_runb_invariant : Invariant (pairAt .runb) := by constructor <;> decide +kernel

theorem restAt_final_invariant :
    Invariant { restAt .final with emitData := (restAt .final).holdingWord } := by constructor <;> decide +kernel

/-- The state after the grant of slot 0 with slot 1 asleep for its last cycle. -/
def granted0 : State :=
  { withMotors .runb { motor 0 7 0 2 with w := .emit, advDir := true } { motor 4 3 0 (-4) with w := .sleep, wcnt :=
    1 } with
    emitData := 0x06, emot := 0, rr := 1 }

theorem granted0_invariant : Invariant granted0 := by constructor <;> decide +kernel

theorem witness_FinalEmitEndsTheRun :
    ∀ p ∈ [failed, acked, Pins.quiet],
      let s := { restAt .final with emitData := (restAt .final).holdingWord, pins := [p] }
      Invariant s ∧ s.pin = p ∧ s.pin.rst = false ∧ s.request = .idle ∧ s.fsm = .final :=
  fun p hp => ⟨restAt_final_invariant.congr rfl rfl rfl rfl rfl rfl rfl rfl rfl, rfl,
    (by decide : ∀ p ∈ [failed, acked, Pins.quiet], p.rst = false) p hp, rfl, rfl⟩

/-- A host that polls STATUS. -/
theorem polls : onlyReads [.read 0x008#12, .idle, .read 0x008#12] := by simp [onlyReads]

/-- A latch that answers at the second edge, and a host that polls. -/
theorem witness_TickTakesOneLatencyAndTheLargestDelay :
    let s := { pairAt .eval with
      pins := failed :: (List.replicate (2 - 1) Pins.quiet ++ ⟨false, true, false⟩ :: [])
      host := [.read 0x008#12, .idle, .read 0x008#12] }
    Invariant s ∧ s.fsm = .eval ∧ (∃ m, s.pending m = true) ∧ onlyReads s.host ∧ 1 ≤ 2 ∧ failed.rst = false ∧
      ∀ p ∈ ([] : List Pins), p.rst = false :=
  ⟨pairAt_eval_invariant.congr rfl rfl rfl rfl rfl rfl rfl rfl rfl, rfl, by decide +kernel, polls, by decide, rfl,
    by decide⟩

/-- A latch that acknowledges at every second edge answers within two edges. -/
def slowPins : List Pins := [Pins.quiet, acked, Pins.quiet, acked]

theorem slow_answers (s : State) (h : s.pins = slowPins) : answersWithin 2 s := by
  refine ⟨by simp [h, slowPins, fair, acked, Pins.quiet], fun k u hk _ _ => ?_⟩
  rw [h] at hk ⊢
  have : ∀ k < 3, ∃ p ∈ (slowPins.drop k).take 2, p.ack = true := by decide
  exact this k (by simp [slowPins] at hk; omega)

theorem witness_DisciplineARunConverges :
    Invariant (pairAt .eval) ∧ (pairAt .eval).fsm = .eval ∧ 4 ≤ slowPins.length ∧
      onlyReads [.read 0x008#12, .idle, .read 0x008#12] ∧
      answersWithin 2 { pairAt .eval with pins := slowPins, host := [.read 0x008#12, .idle, .read 0x008#12] } :=
  ⟨pairAt_eval_invariant, rfl, by decide, polls, slow_answers _ rfl⟩

/-- Each state of a worker, at the bounds of its sleep count. -/
theorem witness_WorkersFollowTheirTransitions :
    let s := { withMotors .runb { motor 0 7 0 2 with w := .req } { motor 4 3 0 (-4) with w := .req } with
      cfg := { Config.default with nMotors := 3 } }
    (s.pin.rst = false ∧ s.request = .idle ∧ s.fsm = .runb ∧ (2 : SlotIx).val < s.cfg.nMotors ∧
      (s.slot 2).w = .idle) ∧
      (s.slot 1).w = .req ∧ s.pending 1 = true ∧ ((restAt .runb).slot 0).w = .idle ∧
      (granted0.pin.err = true → ∀ j, granted0.isSlot j = true → (granted0.slot j).w ≠ .emit) ∧
      (granted0.slot 0).w = .emit ∧ granted0.pin.ack = false ∧ ({ granted0 with pins := [acked] } :
        State).pin.ack = true ∧
      (granted0.slot 1).w = .sleep ∧ (granted0.slot 1).wcnt.toNat ≤ 1 := by decide +kernel

/-- Slot 1 waits while slot 0 comes first from RR = 0. -/
theorem witness_WorkersFollowTheirTransitions_waiting :
    let s := withMotors .runb { motor 0 7 0 2 with w := .req } { motor 4 3 0 (-4) with w := .req }
    (s.slot 1).w = .req ∧ s.pending 1 = true ∧ ¬ granted s 1 := by
  refine ⟨by decide +kernel, by decide +kernel, ?_⟩
  rintro ⟨_, _, _, h⟩
  have := h 0 (by decide +kernel) (by decide +kernel)
  revert this
  decide +kernel

/-- A withdrawn request, and a sleep with two cycles to go: an edge without a grant, an end or an emit. -/
theorem witness_WorkersFollowTheirTransitions_rest :
    let s := withMotors .runb { motor 0 7 0 0 with w := .req } { motor 4 3 5 5 with w := .sleep, wcnt := 2 }
    ((s.slot 0).w = .req ∧ s.pending 0 = false ∧ (s.slot 1).w = .sleep ∧ 1 < (s.slot 1).wcnt.toNat) ∧
      (∀ e, s.isSlot e = true → (s.slot e).w ≠ .emit) ∧ (∀ g, ¬ granted s g) ∧ s.isSlot 1 = true ∧
      s.cfg.nMotors ≤ (2 : SlotIx).val :=
  ⟨by decide +kernel, by decide +kernel, fun g h =>
    absurd ⟨h.2.1, h.2.2.1⟩ ((by decide +kernel : ∀ g, ¬ (((withMotors .runb { motor 0 7 0 0 with w := .req }
      { motor 4 3 5 5 with w := .sleep, wcnt := 2 }).slot g).w = .req ∧ (withMotors .runb
        { motor 0 7 0 0 with w := .req } { motor 4 3 5 5 with w := .sleep, wcnt := 2 }).pending g = true)) g),
    by decide +kernel, by decide +kernel⟩

/-- RR = 1, so that the order wraps. -/
theorem witness_ArbiterGrantsTheFirstInCyclicOrder :
    let s := { withMotors .runb { motor 0 7 0 2 with w := .req } { motor 4 3 0 (-4) with w := .req } with rr := 1 }
    s.cfg.WF ∧ s.pin.rst = false ∧ s.request = .idle ∧ s.fsm = .runb ∧
      (∀ m, s.isSlot m = true → (s.slot m).w ≠ .emit) ∧ ∃ m, (s.slot m).w = .req ∧ s.pending m = true := by
  decide +kernel

theorem witness_DisciplineBEndsWithTheHoldingWord :
    (restAt .runb).pin.rst = false ∧ (restAt .runb).request = .idle ∧ (restAt .runb).fsm = .runb ∧
      (∀ m, (restAt .runb).isSlot m = true → ((restAt .runb).slot m).w = .idle) ∧
      ∀ m, (restAt .runb).pending m = false := by decide +kernel

theorem witness_WorkerEmitErrorAbortsTheRun :
    let s := { granted0 with pins := [failed] }
    Invariant s ∧ s.pin.rst = false ∧ s.request = .idle ∧ s.fsm = .runb ∧ (s.slot 0).w = .emit ∧ s.pin.err = true :=
  ⟨granted0_invariant.congr rfl rfl rfl rfl rfl rfl rfl rfl rfl, rfl, rfl, rfl, by decide +kernel, rfl⟩

theorem witness_DisciplineBRunConverges :
    Invariant (pairAt .runb) ∧ (pairAt .runb).fsm = .runb ∧ 4 ≤ slowPins.length ∧
      onlyReads [.read 0x008#12, .idle, .read 0x008#12] ∧
      answersWithin 2 { pairAt .runb with pins := slowPins, host := [.read 0x008#12, .idle, .read 0x008#12] } :=
  ⟨pairAt_runb_invariant, rfl, by decide, polls, slow_answers _ rfl⟩

/-- One motor with one step to go and delay 1. -/
def oneStep : State := withMotors .idle (motor 0 1 0 1) Slot.reset

theorem witness_BothDisciplinesEndAlike :
    let h : List BusCycle := [.read 0x008#12, .idle, .read 0x008#12]
    Invariant oneStep ∧ oneStep.fsm = .idle ∧ onlyReads h ∧ (∀ p ∈ List.replicate 9 acked, fair p) ∧
      (∃ ta : State, Sys2Proof.core.run 5 { runStarted .a oneStep with pins := List.replicate 9 acked, host := h } =
        .next ta ∧ ta.fsm = .idle) ∧
      ∃ tb : State, Sys2Proof.core.run 6 { runStarted .b oneStep with pins := List.replicate 9 acked, host := h } =
        .next tb ∧ tb.fsm = .idle :=
  ⟨by constructor <;> decide +kernel, rfl, polls, by simp [fair, acked], ⟨_, rfl, by decide +kernel⟩,
    ⟨_, rfl, by decide +kernel⟩⟩

theorem witness_ComposedWordIsTheOrOfThePatterns : (pairAt .idle).cfg.WF ∧ 0 < 32 ∧ 31 < 32 := by decide +kernel

theorem witness_PatchedWordReplacesOneNibble :
    (pairAt .idle).cfg.WF ∧ 7 < (pairAt .idle).cfg.outWidth ∧
      (((pairAt .idle).slot 1).bitOffset.toNat ≤ 7 ∧ 7 < ((pairAt .idle).slot 1).bitOffset.toNat + 4) :=
        by decide +kernel

theorem witness_NoMotorDisturbsAnothersNibble :
    Invariant (pairAt .eval) ∧ (pairAt .eval).registered 0 = true ∧ (pairAt .eval).registered 1 = true ∧
      (1 : SlotIx) ≠ 0 := ⟨pairAt_eval_invariant, by decide +kernel, by decide +kernel, by decide⟩

theorem witness_WrnibEmitsThePatchedWord :
    (1 : SlotIx).val < (pairAt .idle).cfg.nMotors ∧ (pairAt .idle).busy = false ∧
      ((pairAt .idle).slot 1).reg = true := by
  decide +kernel

theorem witness_WrnibEmitEndsOnItsAnswer :
    ∀ p ∈ [failed, acked, Pins.quiet], ({ restAt .patch with pins := [p] } : State).pin = p ∧ p.rst = false ∧
      ({ restAt .patch with pins := [p] } : State).request = .idle ∧ (restAt .patch).fsm = .patch := by decide +kernel

theorem witness_EmitPortDrivesTheWordInFlight :
    let s := { restAt .final with emitData := (restAt .final).holdingWord }
    s.cfg.WF ∧ Invariant s ∧ emitInFlight s ∧ s.registered 1 = true ∧ (3 : Nat) < 4 ∧ s.emitData = s.compose s.posOf :=
  ⟨by decide +kernel, by constructor <;> decide +kernel, .inl (by decide), by decide +kernel, by decide, rfl⟩

theorem witness_OutChangesOnlyOnAcknowledge :
    (∃ t, step { pairAt .emit with pins := [acked] } = .next t) ∧ (pairAt .emit).emitting = true ∧ acked.rst = false ∧
      acked.ack = true ∧ acked.err = false := ⟨step_next _, by decide +kernel, rfl, rfl, rfl⟩

/-- An unanswered emit, an acknowledged one and a failed one. -/
theorem witness_EmitsHoldStillAndAreSeparated :
    ∀ p ∈ [failed, acked, Pins.quiet],
      let s := { granted0 with pins := [p] }
      Invariant s ∧ (∃ t, step s = .next t) ∧ s.pin = p ∧ s.pin.rst = false ∧ s.emitting = true :=
  fun p hp => ⟨granted0_invariant.congr rfl rfl rfl rfl rfl rfl rfl rfl rfl, step_next _, rfl,
    (by decide : ∀ p ∈ [failed, acked, Pins.quiet], p.rst = false) p hp,
    show granted0.emitting = true by decide +kernel⟩

theorem witness_FailedEmitAbortsItsOwner :
    let s := { granted0 with pins := [failed] }
    Invariant s ∧ (∃ t, step s = .next t) ∧ s.pin.rst = false ∧ s.emitting = true ∧ s.pin.err = true :=
  ⟨granted0_invariant.congr rfl rfl rfl rfl rfl rfl rfl rfl rfl, step_next _, rfl, by decide +kernel, rfl⟩

theorem witness_EveryStepKeepsTheInvariant : Invariant granted0 ∧ ∃ t, step granted0 = .next t :=
  ⟨granted0_invariant, step_next _⟩

theorem witness_PositionsMoveOneStepTowardTheTarget :
    let s := { granted0 with pins := [acked] }
    Invariant s ∧ (∃ t, step s = .next t) ∧ s.pin.rst = false ∧ (s.accepted = true → s.request.isCmdWrite = false) ∧
      s.pending 0 = true :=
  ⟨granted0_invariant.congr rfl rfl rfl rfl rfl rfl rfl rfl rfl, step_next _, rfl, by decide +kernel,
    by decide +kernel⟩

theorem witness_StatusFlagsAreWriteOneToClear :
    (State.reset.pin.rst = false ∧ 0x00B#12 &&& 0xFFC#12 = 0x008#12 ∧ State.reset.fsm = .idle) ∧
      ((restAt .final).fsm = .final ∧ acked.rst = false ∧ acked.ack = true ∧ acked.err = false) ∧
      ((restAt .patch).emitting = true ∧ failed.rst = false ∧ failed.err = true) := by decide +kernel

/-- The first and the last byte address of each word, a read-only register and an unmapped address. -/
theorem witness_WritesReachOnlyTheWritableRegisters :
    0x004#12 &&& 0xFFC#12 = 0x004#12 ∧ 0x007#12 &&& 0xFFC#12 = 0x004#12 ∧ (restAt .eval).busy = true ∧
      (restAt .idle).busy = false ∧ 0x013#12 &&& 0xFFC#12 = 0x010#12 ∧
      0x017#12 &&& 0xFFC#12 = 0x014#12 ∧ 0x01B#12 &&& 0xFFC#12 = 0x018#12 ∧
      0x00C#12 &&& 0xFFC#12 ∉ [0x004#12, 0x008#12, 0x010#12, 0x014#12, 0x018#12] ∧
      0xFFF#12 &&& 0xFFC#12 ∉ [0x004#12, 0x008#12, 0x010#12, 0x014#12, 0x018#12] := by decide +kernel

theorem witness_GlobalRegistersReadTheirFields :
    ({ State.reset with host := [.read 0x003] } : State).request = .read 0x003 ∧ State.reset.cfg.WF ∧
      0x003#12 &&& 0xFFC#12 = 0x000#12 ∧ 0x007#12 &&& 0xFFC#12 = 0x004#12 ∧
      0x00B#12 &&& 0xFFC#12 = 0x008#12 ∧ 0x00F#12 &&& 0xFFC#12 = 0x00C#12 ∧ 0x013#12 &&& 0xFFC#12 = 0x010#12 ∧
      0x017#12 &&& 0xFFC#12 = 0x014#12 ∧ 0x01B#12 &&& 0xFFC#12 = 0x018#12 ∧ 0x01F#12 &&& 0xFFC#12 = 0x01C#12 ∧
      0x023#12 &&& 0xFFC#12 = 0x020#12 ∧ 0x027#12 &&& 0xFFC#12 = 0x024#12 ∧ 0x02B#12 &&& 0xFFC#12 = 0x028#12 ∧
      0x02F#12 &&& 0xFFC#12 = 0x02C#12 := by decide

/-- Slot 1 of two, at every register and the first and last reserved offset. -/
theorem witness_SlotRegistersReadTheirFields :
    ({ State.reset with host := [.read 0x143] } : State).request = .read 0x143 ∧
    ∀ off ∈ [0x00, 0x04, 0x08, 0x0C, 0x10, 0x14, 0x18, 0x1C, 0x20, 0x24, 0x28, 0x3C],
      (1 : SlotIx).val < State.reset.cfg.nMotors ∧ off < 0x40 ∧
        (BitVec.ofNat 12 (0x143 + off) &&& 0xFFC#12).toNat = 0x100 + 0x40 * (1 : SlotIx).val + off := by decide

theorem witness_UnmappedAddressesReadZeroAndIgnoreWrites :
    (0x030 ≤ (0x030#12 &&& 0xFFC#12).toNat ∧ (0x030#12 &&& 0xFFC#12).toNat < 0x100) ∧
      (0x030 ≤ (0x0FF#12 &&& 0xFFC#12).toNat ∧ (0x0FF#12 &&& 0xFFC#12).toNat < 0x100) ∧
      0x100 + 0x40 * State.reset.cfg.nMotors ≤ (0x180#12 &&& 0xFFC#12).toNat ∧
      0x100 + 0x40 * State.reset.cfg.nMotors ≤ (0xFFF#12 &&& 0xFFC#12).toNat := by decide

/-- Slot 1 of two, POS and TGT, with a write, an idle cycle and a read of another register between the two reads. -/
theorem witness_LowThenHighReadIsTearFree :
    let mid : List BusCycle := [.write 0x014 7, .idle, .read 0x154]
    let s := { pairAt .eval with host := .read 0x150 :: (mid ++ .read 0x154 :: []) }
    (1 : SlotIx).val < s.cfg.nMotors ∧ (∀ p ∈ s.pins, p.rst = false) ∧
      (∀ c, .read c ∈ mid → ¬ isLowRead s c) ∧ (∀ c v, .write c v ∈ mid → c &&& 0xFFC#12 ≠ 0x010#12) ∧
      (∃ t : State, Sys2Proof.core.run 4 s = .next t ∧ t.host = [.read 0x154]) ∧
      (0x150#12 &&& 0xFFC#12).toNat = 0x110 + 0x40 * (1 : SlotIx).val ∧
      (0x154#12 &&& 0xFFC#12).toNat = 0x114 + 0x40 * (1 : SlotIx).val ∧
      (0x158#12 &&& 0xFFC#12).toNat = 0x118 + 0x40 * (1 : SlotIx).val ∧
      (0x15C#12 &&& 0xFFC#12).toNat = 0x11C + 0x40 * (1 : SlotIx).val := by
  refine ⟨by decide +kernel, by simp [pairAt, withMotors, State.reset, State.resetWith, State.setSlot, State.withSlots],
    ?_, ?_, ⟨_, rfl, by decide +kernel⟩, by decide, by decide, by decide, by decide⟩
  · intro c hc
    simp only [List.mem_cons, reduceCtorEq, BusCycle.read.injEq, List.not_mem_nil, or_false, false_or] at hc
    subst hc
    rintro ⟨j, _, h⟩
    revert j
    decide
  · simp

/-- An edge that accepts a write, and the last register below and the first above the low halves of slot 1. -/
theorem witness_LowThenHighReadIsTearFree_frame :
    let s := { pairAt .eval with host := [.write 0x014 7] }
    (s.pin.rst = false ∧ (∀ a, s.request ≠ .read a) ∧ ∃ t, step s = .next t) ∧
      ∀ j : SlotIx, ∀ a ∈ [0x14F#12, 0x154#12, 0x157#12, 0x15C#12], (a &&& 0xFFC#12).toNat ≠ 0x110 + 0x40 * j.val ∧
        (a &&& 0xFFC#12).toNat ≠ 0x118 + 0x40 * j.val :=
  ⟨⟨rfl, fun a h => (by cases h), step_next _⟩, by decide⟩

theorem witness_ResetEdgeClearsTheBlock :
    let s := { granted0 with pins := [⟨true, true, false⟩], host := [.write 0x010 5] }
    s.pin.rst = true ∧ s.request ≠ .idle := by decide +kernel

end Sys2Proof.Tests
end

/-! PROOFS. The block never faults and never refuses (spec/00_scope.md R25; spec/60_exceptions.md R260), and the read
values of a motor slot's registers (spec/10_state.md R47 to R54). -/

namespace Sys2Proof.Machine

open Sys2Proof.Claims

/-! ## Which register a read of a slot address reaches -/

theorem busRdata_of_read {s : State} {a : Addr} (h : s.request = .read a) : s.busRdata = some (readReg s a) := by
  simp [State.busRdata, h]

theorem readReg_of_slot {s : State} {a : Addr} {m : SlotIx} {r : SlotReg} (h : s.regAt a = .slot m r) :
    readReg s a = slotRead s m r := by
  simp [readReg, h]

theorem readReg_of_unmapped {s : State} {a : Addr} (h : s.regAt a = .unmapped) : readReg s a = 0 := by
  simp [readReg, h]

/-- The offsets above WCNT are reserved (R32). -/
theorem slotRegAt_reserved (m : SlotIx) {off : Nat} (h : 0x28 ≤ off) : slotRegAt m off = .unmapped := by
  unfold slotRegAt
  split
  case h_11 => rfl
  all_goals omega

/-! ## The register words that are sums of fields or remainders (R47, R50, R53) -/

/-- The fields of MCFG fit their places, so the word is their sum (R47). -/
theorem toNat_mcfgWord (x : Slot) : (mcfgWord x).toNat =
    x.reg.toNat + 2 * x.dirInv.toNat + 4 * x.half.toNat + 256 * x.bitOffset.toNat := by
  have := x.bitOffset.isLt
  have := Bool.toNat_le x.reg
  have := Bool.toNat_le x.dirInv
  have := Bool.toNat_le x.half
  simp only [mcfgWord, atBit, BitVec.toNat_ofNat]
  omega

theorem phase_lt (x : Slot) (p : ℤ) : x.phase p < 8 := by
  unfold Slot.phase Slot.seqLen
  split <;> omega

theorem code_eq_workerNumber (w : WState) : w.code = workerNumber w := by cases w <;> rfl

theorem workerNumber_lt (w : WState) : workerNumber w < 4 := by cases w <;> decide

/-- The fields of MSTATE fit their places, so the word is their sum (R50). -/
theorem toNat_mstateWord (s : State) (m : SlotIx) : (mstateWord s m).toNat =
    (s.slot m).phase (s.posOf m) + 16 * (s.pattern m (s.posOf m)).toNat + 256 * (s.pending m).toNat +
      512 * (s.toward m).toNat + 4096 * workerNumber (s.slot m).w := by
  have := phase_lt (s.slot m) (s.posOf m)
  have := (s.pattern m (s.posOf m)).isLt
  have := Bool.toNat_le (s.pending m)
  have := Bool.toNat_le (s.toward m)
  have := workerNumber_lt (s.slot m).w
  simp only [mstateWord, atBit, code_eq_workerNumber, BitVec.toNat_ofNat]
  omega

/-- A remainder by SPR is not negative and fits 32 bits, so MPOS holds it whole (R53). -/
theorem toNat_mposWord (x : Slot) :
    (mposWord x).toNat = if x.spr = 0 then 0 else (x.pos.toInt % (x.spr.toNat : ℤ)).toNat := by
  unfold mposWord
  split
  case isTrue => rfl
  case isFalse h =>
    have h0 : x.spr.toNat ≠ 0 := fun h0 => h (BitVec.eq_of_toNat_eq h0)
    have hlt := x.spr.isLt
    have hlo := Int.emod_nonneg x.pos.toInt (b := x.spr.toNat) (by omega)
    have hhi := Int.emod_lt_of_pos x.pos.toInt (b := x.spr.toNat) (by omega)
    rw [BitVec.toNat_ofInt, Int.emod_eq_of_lt hlo (by omega)]

/-- A slot that exists is pending exactly when it is registered and not at its target (R20). -/
theorem pending_of_isSlot {s : State} {m : SlotIx} (h : m.val < s.cfg.nMotors) :
    s.pending m = true ↔ (s.slot m).reg = true ∧ (s.slot m).pos ≠ (s.slot m).tgt := by
  simp [pending_iff, State.registered, State.isSlot, h]

/-- MSTATE of an existing slot, with the phase, the pending test and the direction written out (R20, R50). -/
theorem toNat_mstateWord_of_isSlot {s : State} {m : SlotIx} (h : m.val < s.cfg.nMotors) : (mstateWord s m).toNat =
    (s.posOf m % (if (s.slot m).half then 8 else 4)).toNat + 16 * (s.pattern m (s.posOf m)).toNat +
      (if (s.slot m).reg = true ∧ (s.slot m).pos ≠ (s.slot m).tgt then 256 else 0) +
      (if s.posOf m < s.tgtOf m then 512 else 0) + 4096 * workerNumber (s.slot m).w := by
  have hp : (s.slot m).phase (s.posOf m) = (s.posOf m % (if (s.slot m).half then 8 else 4)).toNat := by
    unfold Slot.phase Slot.seqLen
    split <;> rfl
  simp only [toNat_mstateWord, hp, Bool.toNat, Bool.cond_eq_ite, pending_of_isSlot h, State.toward, decide_eq_true_eq,
    mul_ite, mul_one, mul_zero]

/-! ## The obligations -/

/-- Settles O48: an edge is a reset, which answers the reset state, or an accepted transaction, whose every branch
answers a next state, and then the engine step, which is a function (`step_next`). -/
theorem everyStepAnswersANextState : Obligations.EveryStepAnswersANextState := step_next

/-- Settles O56: the address map sends the address to the register at that offset of slot m, whose read value is the
stored field or the word of one of the lemmas above. -/
theorem slotRegistersReadTheirFields : Obligations.SlotRegistersReadTheirFields := by
  intro s a m off hm ho ha
  have hat : s.regAt a = slotRegAt m off := regAt_slot s ha ho hm
  have read (r : SlotReg) (h : slotRegAt m off = .slot m r) : readReg s a = slotRead s m r :=
    readReg_of_slot (hat.trans h)
  refine ⟨busRdata_of_read, fun h => ?mcfg, fun h => read .spr (h ▸ rfl), fun h => read .delay (h ▸ rfl),
    fun h => ?mstate, fun h => read .posLo (h ▸ rfl), fun h => read .posHi (h ▸ rfl), fun h => read .tgtLo (h ▸ rfl),
    fun h => read .tgtHi (h ▸ rfl), fun h => ?mpos, fun h => read .wcnt (h ▸ rfl),
    fun h => readReg_of_unmapped (hat.trans (slotRegAt_reserved m h))⟩
  case mcfg =>
    simp only [read .mcfg (h ▸ rfl), slotRead, toNat_mcfgWord, Bool.toNat, Bool.cond_eq_ite, mul_ite, mul_one, mul_zero]
  case mstate =>
    rw [read .mstate (h ▸ rfl)]
    exact toNat_mstateWord_of_isSlot hm
  case mpos =>
    rw [read .mpos (h ▸ rfl)]
    exact toNat_mposWord _

end Sys2Proof.Machine

/-! PROOFS. Every edge keeps the invariant (spec/10_state.md R43, R54, R59, R63; spec/41_motor.md R170, R172;
spec/42_scheduler.md R204, R205, R217; spec/43_output.md R246). The invariant is taken apart into what speaks of the
motors (`LegalMotors`), of the registers (`LegalRegisters`), of the workers (`Grounded`), and of the emit in flight. The
accepted transaction keeps it (`Invariant.after_hostTransaction`), and so does the engine step of the state it leaves
(`Invariant.after_engineStep`). -/

namespace Sys2Proof.Machine

/-! ## The motors (R11, R12, R32, R63) -/

/-- Slot contents x could stand in slot m as a registered motor: calibrated, its nibble inside the word and shared with
no other registered motor (R63). -/
structure Fits (s : State) (m : SlotIx) (x : Slot) : Prop where
  spr : x.spr ≠ 0
  delay : x.delay ≠ 0
  aligned : x.bitOffset.toNat % 4 = 0
  inside : x.bitOffset.toNat + 4 ≤ s.cfg.outWidth
  apart : ∀ j, j ≠ m → s.registered j = true → x.bitOffset ≠ (s.slot j).bitOffset

/-- The part of the invariant about the parameters and the motors. -/
structure LegalMotors (s : State) : Prop where
  cfg : s.cfg.WF
  absent : ∀ m, s.isSlot m = false → s.slot m = Slot.reset
  fits : ∀ m, s.registered m = true → Fits s m (s.slot m)

theorem Invariant.legalMotors {s : State} (h : Invariant s) : LegalMotors s where
  cfg := h.cfg
  absent := h.absent
  fits m hm :=
    have ⟨hspr, hdelay, haligned, hinside⟩ := h.calibrated m hm
    ⟨hspr, hdelay, haligned, hinside, fun j hj hr => h.disjoint m j hj.symm hm hr⟩

/-- Slot contents with the same registration and calibration. -/
structure SameCalibration (x y : Slot) : Prop where
  reg : y.reg = x.reg
  spr : y.spr = x.spr
  delay : y.delay = x.delay
  bitOffset : y.bitOffset = x.bitOffset

theorem Fits.of_sameCalibration {s : State} {m : SlotIx} {x y : Slot} (h : Fits s m x) (hxy : SameCalibration x y) :
    Fits s m y := by
  obtain ⟨-, hspr, hdelay, hoff⟩ := hxy
  exact ⟨hspr ▸ h.spr, hdelay ▸ h.delay, hoff ▸ h.aligned, hoff ▸ h.inside, hoff ▸ h.apart⟩

/-- A state with the same parameters whose slots keep their calibration has legal motors too; absent slots may not
change. -/
theorem LegalMotors.of_sameCalibration {s t : State} (h : LegalMotors s) (hc : t.cfg = s.cfg)
    (hs : ∀ m, SameCalibration (s.slot m) (t.slot m)) (ha : ∀ m, s.isSlot m = false → t.slot m = s.slot m) :
    LegalMotors t := by
  have hslot (m : SlotIx) : t.isSlot m = s.isSlot m := by simp only [State.isSlot, hc]
  have hreg (m : SlotIx) : t.registered m = s.registered m := by simp only [State.registered, hslot, (hs m).reg]
  refine ⟨hc ▸ h.cfg, fun m hm => (ha m (hslot m ▸ hm)).trans (h.absent m (hslot m ▸ hm)), fun m hm => ?_⟩
  obtain ⟨hspr, hdelay, haligned, hinside, hapart⟩ := (h.fits m (hreg m ▸ hm)).of_sameCalibration (hs m)
  refine ⟨hspr, hdelay, haligned, hc ▸ hinside, fun j hj hr => ?_⟩
  rw [(hs j).bitOffset]
  exact hapart j hj (hreg j ▸ hr)

theorem LegalMotors.congr {s t : State} (h : LegalMotors s) (hc : t.cfg = s.cfg) (hs : t.slots = s.slots) :
    LegalMotors t :=
  h.of_sameCalibration hc (fun m => slot_congr hs m ▸ ⟨rfl, rfl, rfl, rfl⟩) fun m _ => slot_congr hs m

theorem LegalMotors.mapSlots {s : State} (h : LegalMotors s) {f : SlotIx → Slot → Slot}
    (hf : ∀ m, SameCalibration (s.slot m) (f m (s.slot m))) : LegalMotors (s.mapSlots f) := by
  refine h.of_sameCalibration (mapSlots_cfg s f) (fun m => ?_) fun m => slot_mapSlots_absent s f
  rw [slot_mapSlots]
  split
  · exact hf m
  · exact ⟨rfl, rfl, rfl, rfl⟩

/-- What holds of a slot at reset and of every rewritten slot holds of every slot after the rewriting. -/
theorem LegalMotors.forall_mapSlots {s : State} (h : LegalMotors s) {f : SlotIx → Slot → Slot} {p : Slot → Prop}
    (hreset : p Slot.reset) (hf : ∀ m, p (f m (s.slot m))) (m : SlotIx) : p ((s.mapSlots f).slot m) := by
  cases hs : s.isSlot m
  · rw [slot_mapSlots_absent s f hs, h.absent m hs]
    exact hreset
  · rw [slot_mapSlots_of_isSlot s f hs]
    exact hf m

/-- Writing one existing slot keeps the motors legal when the new contents, if registered, fit. -/
theorem LegalMotors.setSlot {s : State} (h : LegalMotors s) {m : SlotIx} {x : Slot} (hm : s.isSlot m = true)
    (hx : x.reg = true → Fits s m x) : LegalMotors (s.setSlot m x) := by
  have other (j : SlotIx) (hj : j ≠ m) : (s.setSlot m x).registered j = s.registered j := by
    simp only [State.registered, State.isSlot, setSlot_cfg, slot_setSlot_ne s x hj]
  have self (hr : (s.setSlot m x).registered m = true) : Fits s m x :=
    hx (by simpa using ((Bool.and_eq_true ..).mp hr).2)
  refine ⟨h.cfg, fun j hj => ?absent, fun j hj => ?fits⟩
  case absent =>
    have hne : j ≠ m := fun e => Bool.false_ne_true (hj.symm.trans (e ▸ hm))
    rw [slot_setSlot_ne s x hne]
    exact h.absent j hj
  case fits =>
    by_cases hjm : j = m
    · subst hjm
      obtain ⟨hspr, hdelay, haligned, hinside, hapart⟩ := self hj
      rw [slot_setSlot_self]
      refine ⟨hspr, hdelay, haligned, hinside, fun k hk hr => ?_⟩
      rw [slot_setSlot_ne s x hk]
      exact hapart k hk (other k hk ▸ hr)
    · obtain ⟨hspr, hdelay, haligned, hinside, hapart⟩ := h.fits j (other j hjm ▸ hj)
      rw [slot_setSlot_ne s x hjm]
      refine ⟨hspr, hdelay, haligned, hinside, fun k hk hr => ?_⟩
      by_cases hkm : k = m
      · subst hkm
        rw [slot_setSlot_self]
        exact ((self hr).apart j hjm (other j hjm ▸ hj)).symm
      · rw [slot_setSlot_ne s x hkm]
        exact hapart k hk (other k hkm ▸ hr)

/-! ## The registers and the workers (R38, R42, R43, R54, R57, R59) -/

/-- The part of the invariant about SLEEP_CNT, the two words and the two pointers. -/
structure LegalRegisters (s : State) : Prop where
  timer : if s.fsm = .sleep then 1 ≤ s.sleepCnt.toNat ∧ s.sleepCnt.toNat ≤ s.sleepLen.toNat else s.sleepCnt = 0
  width : s.out &&& outMask s.cfg = s.out ∧ s.emitData &&& outMask s.cfg = s.emitData
  pointers : s.isSlot s.rr = true ∧ s.isSlot s.emot = true

theorem Invariant.legalRegisters {s : State} (h : Invariant s) : LegalRegisters s := ⟨h.timer, h.width, h.pointers⟩

theorem LegalRegisters.withSlots {s : State} (h : LegalRegisters s) (v : Vector Slot 16) :
    LegalRegisters (s.withSlots v) := ⟨h.timer, h.width, h.pointers⟩

theorem LegalRegisters.mapSlots {s : State} (h : LegalRegisters s) (f : SlotIx → Slot → Slot) :
    LegalRegisters (s.mapSlots f) := by
  unfold State.mapSlots
  exact h.withSlots _

/-- Outside SLEEP the counter is 0, which is all that the timer asks there. -/
theorem LegalRegisters.of_awake {s : State} (hf : s.fsm ≠ .sleep) (hc : s.sleepCnt = 0)
    (hw : s.out &&& outMask s.cfg = s.out ∧ s.emitData &&& outMask s.cfg = s.emitData)
    (hp : s.isSlot s.rr = true ∧ s.isSlot s.emot = true) : LegalRegisters s :=
  ⟨by rwa [if_neg hf], hw, hp⟩

theorem Invariant.sleepCnt_eq_zero {s : State} (h : Invariant s) (hf : s.fsm ≠ .sleep) : s.sleepCnt = 0 := by
  simpa [hf] using h.timer

/-- WCNT is 0 but for a sleeping worker, which has between 1 and DELAY cycles to go (R54, R214). -/
structure Slot.CounterLegal (x : Slot) : Prop where
  awake : x.w ≠ .sleep → x.wcnt = 0
  asleep : x.w = .sleep → 1 ≤ x.wcnt.toNat ∧ x.wcnt.toNat ≤ x.delay.toNat

theorem Slot.counterLegal_iff (x : Slot) : x.CounterLegal ↔
    if x.w = .sleep then 1 ≤ x.wcnt.toNat ∧ x.wcnt.toNat ≤ x.delay.toNat else x.wcnt = 0 := by
  split
  case isTrue hw => exact ⟨fun h => h.asleep hw, fun h => ⟨fun hne => absurd hw hne, fun _ => h⟩⟩
  case isFalse hw => exact ⟨fun h => h.awake hw, fun h => ⟨fun _ => h, fun hs => absurd hs hw⟩⟩

theorem Slot.counterLegal_of_wcnt_eq_zero {x : Slot} (hw : x.w ≠ .sleep) (h : x.wcnt = 0) : x.CounterLegal :=
  ⟨fun _ => h, fun hs => absurd hs hw⟩

theorem Invariant.counters {s : State} (h : Invariant s) (m : SlotIx) : (s.slot m).CounterLegal :=
  (Slot.counterLegal_iff _).2 (h.workerSleep m)

/-- The slot has no step in flight: its worker is not in W_EMIT and it is not in the ADV set. -/
structure Slot.Quiet (x : Slot) : Prop where
  counter : x.CounterLegal
  adv : x.adv = false
  worker : x.w ≠ .emit

theorem Slot.quiet_reset : Slot.reset.Quiet :=
  ⟨Slot.counterLegal_of_wcnt_eq_zero (by decide) rfl, rfl, by decide⟩

/-- Being quiet reads the worker, its counter, DELAY and the ADV bit alone. -/
theorem Slot.Quiet.congr {x y : Slot} (h : x.Quiet) (hw : y.w = x.w) (hc : y.wcnt = x.wcnt) (hd : y.delay = x.delay)
    (ha : y.adv = x.adv) : y.Quiet :=
  ⟨⟨by rw [hw, hc]; exact h.counter.awake, by rw [hw, hc, hd]; exact h.counter.asleep⟩, ha.trans h.adv, hw ▸ h.worker⟩

theorem fsm_ne_of_not_emitting {s : State} (he : s.emitting = false) : s.fsm ≠ .emit ∧ s.fsm ≠ .final := by
  constructor <;> intro hf <;> simp [State.emitting, hf] at he

/-- Outside a run and with no emit in flight the FSM is in IDLE (R61). -/
theorem fsm_eq_idle {s : State} (hb : s.busy = false) (he : s.emitting = false) : s.fsm = .idle := by
  cases hf : s.fsm <;> simp [State.busy, State.emitting, hf] at hb he ⊢

/-- The ADV set is empty outside EMIT (R200). -/
theorem Invariant.adv_eq_false {s : State} (h : Invariant s) (hf : s.fsm ≠ .emit) (m : SlotIx) :
    (s.slot m).adv = false := by
  simpa [hf] using h.advSet m

theorem Invariant.quiet {s : State} (h : Invariant s) (he : s.emitting = false) (m : SlotIx) : (s.slot m).Quiet :=
  ⟨h.counters m, h.adv_eq_false (fsm_ne_of_not_emitting he).1 m, h.no_worker_emit he m⟩

/-- Outside RUNB and EMIT no slot has a step in flight. -/
theorem Invariant.quiet_of_workersRest {s : State} (h : Invariant s) (hf : s.fsm ≠ .runb) (hemit : s.fsm ≠ .emit)
    (m : SlotIx) : (s.slot m).Quiet :=
  ⟨h.counters m, h.adv_eq_false hemit m, by simp [h.workersRest hf m]⟩

/-- The invariant but for what it says of the emit in flight. -/
structure Grounded (s : State) : Prop where
  motors : LegalMotors s
  registers : LegalRegisters s
  workersRest : s.fsm ≠ .runb → ∀ m, (s.slot m).w = .idle
  counters : ∀ m, (s.slot m).CounterLegal

/-- Rewriting the existing slots of a state with legal motors and registers, calibration and counters kept. -/
theorem Grounded.mapSlots {s : State} (hm : LegalMotors s) (hr : LegalRegisters s) {f : SlotIx → Slot → Slot}
    (hf : ∀ m, SameCalibration (s.slot m) (f m (s.slot m))) (hw : s.fsm ≠ .runb → ∀ m, (f m (s.slot m)).w = .idle)
    (hc : ∀ m, (f m (s.slot m)).CounterLegal) : Grounded (s.mapSlots f) := by
  refine ⟨hm.mapSlots hf, hr.mapSlots f, fun hfsm => ?_, hm.forall_mapSlots Slot.quiet_reset.counter hc⟩
  exact hm.forall_mapSlots (p := fun x => x.w = .idle) rfl (hw (by simpa using hfsm))

/-- A patched word has no bit beyond OUT_WIDTH. -/
theorem patch_mask (s : State) (g : SlotIx) (p : ℤ) : s.patch g p &&& outMask s.cfg = s.patch g p := by
  rw [State.patch, BitVec.and_assoc, BitVec.and_self]

/-! ## The invariant put together again, by the emit in flight -/

/-- The invariant of a grounded state, from what it says of the ADV set and of a tick's, a worker's and a holding
emit. -/
theorem Grounded.invariant {s : State} (h : Grounded s)
    (hadv : ∀ m, (s.slot m).adv = (decide (s.fsm = .emit) && s.pending m))
    (htick : s.fsm = .emit → s.sleepLen ≠ 0 ∧ (∀ m, s.pending m = true → (s.slot m).advDir = s.toward m) ∧
      s.emitData = s.compose s.tickPos ∧ s.emot = 0)
    (hworker : ∀ m, (s.slot m).w = .emit → s.emot = m ∧ (s.pending m = true ∧ (s.slot m).advDir = s.toward m) ∧
      s.emitData = s.patch m (s.steppedPos m))
    (hholding : s.fsm = .final → (∀ m, s.pending m = false) ∧ s.emitData = s.holdingWord ∧ s.emot = 0) :
    Invariant s where
  cfg := h.motors.cfg
  absent := h.motors.absent
  calibrated m hm :=
    have fit := h.motors.fits m hm
    ⟨fit.spr, fit.delay, fit.aligned, fit.inside⟩
  disjoint m j hmj hm hj := (h.motors.fits m hm).apart j hmj.symm hj
  oneEmit m hm := (hworker m hm).1
  workersRest := h.workersRest
  workerSleep m := (Slot.counterLegal_iff _).1 (h.counters m)
  timer := h.registers.timer
  tickSleep hf := (htick hf).1
  advSet := hadv
  tickDir hf := (htick hf).2.1
  workerDir m hm := (hworker m hm).2.1
  tickWord hf := (htick hf).2.2
  workerWord m hm := (hworker m hm).2.2
  holding := hholding
  width := h.registers.width
  pointers := h.registers.pointers

/-- With no tick and no holding word in flight, the invariant asks of the emit only what R217 says of a worker's. -/
theorem Grounded.invariant_of_workers {s : State} (h : Grounded s) (hadv : ∀ m, (s.slot m).adv = false)
    (hemit : s.fsm ≠ .emit) (hfinal : s.fsm ≠ .final)
    (hworker : ∀ m, (s.slot m).w = .emit → s.emot = m ∧ (s.pending m = true ∧ (s.slot m).advDir = s.toward m) ∧
      s.emitData = s.patch m (s.steppedPos m)) : Invariant s :=
  h.invariant (fun m => by simp [hadv m, hemit]) (fun hf => absurd hf hemit) hworker fun hf => absurd hf hfinal

/-- A state in which no slot has a step in flight and no holding word is. -/
theorem invariant_of_quiet {s : State} (hm : LegalMotors s) (hr : LegalRegisters s) (hq : ∀ m, (s.slot m).Quiet)
    (hw : s.fsm ≠ .runb → ∀ m, (s.slot m).w = .idle) (hemit : s.fsm ≠ .emit) (hfinal : s.fsm ≠ .final) :
    Invariant s :=
  Grounded.invariant_of_workers ⟨hm, hr, hw, fun m => (hq m).counter⟩ (fun m => (hq m).adv) hemit hfinal
    fun m he => absurd he (hq m).worker

/-- Rewriting the existing slots so that none has a step in flight. -/
theorem invariant_mapSlots_of_quiet {s : State} (hm : LegalMotors s) (hr : LegalRegisters s)
    {f : SlotIx → Slot → Slot} (hf : ∀ m, SameCalibration (s.slot m) (f m (s.slot m)))
    (hq : ∀ m, (f m (s.slot m)).Quiet) (hw : s.fsm ≠ .runb → ∀ m, (f m (s.slot m)).w = .idle)
    (hemit : s.fsm ≠ .emit) (hfinal : s.fsm ≠ .final) : Invariant (s.mapSlots f) := by
  have g := Grounded.mapSlots hm hr hf hw fun m => (hq m).counter
  exact invariant_of_quiet g.motors g.registers (hm.forall_mapSlots Slot.quiet_reset hq) g.workersRest
    (by simpa using hemit) (by simpa using hfinal)

/-- Putting every worker to rest. -/
theorem invariant_restWorkers {s : State} (hm : LegalMotors s) (hr : LegalRegisters s)
    (hadv : ∀ m, (s.slot m).adv = false) (hemit : s.fsm ≠ .emit) (hfinal : s.fsm ≠ .final) :
    Invariant (restWorkers s) :=
  invariant_mapSlots_of_quiet hm hr (fun _ => ⟨rfl, rfl, rfl, rfl⟩)
    (fun m => ⟨Slot.counterLegal_of_wcnt_eq_zero (by simp) rfl, hadv m, by simp⟩) (fun _ _ => rfl) hemit hfinal

/-! ## The accepted transaction -/

/-- With no emit in flight, a slot may be written by contents that fit it and have no step in flight. -/
theorem Invariant.after_setSlot {s : State} (h : Invariant s) (he : s.emitting = false) {m : SlotIx} {x : Slot}
    (hm : s.isSlot m = true) (hx : x.reg = true → Fits s m x) (hq : x.Quiet) (hw : x.w = (s.slot m).w) :
    Invariant (s.setSlot m x) := by
  obtain ⟨hemit, hfinal⟩ := fsm_ne_of_not_emitting he
  refine invariant_of_quiet (h.legalMotors.setSlot hm hx) (h.legalRegisters.withSlots _) (fun j => ?_)
    (fun hf j => ?_) hemit hfinal
  all_goals rw [slot_setSlot]; split
  · exact hq
  · exact h.quiet he j
  · exact hw.trans (h.workersRest hf m)
  · exact h.workersRest hf j

/-- What the checks of CONFIGURE establish (R165): the slot exists, no run is active, and the operands fit the slot. -/
theorem fits_of_checkConfigure {s : State} {m : SlotIx} {off : Nat} {spr delay : Word} (hcfg : s.cfg.WF)
    (h : s.checkConfigure m off spr delay = none) : s.isSlot m = true ∧ s.busy = false ∧
      ∀ x : Slot, x.bitOffset = BitVec.ofNat 8 off → x.spr = spr → x.delay = delay → Fits s m x := by
  unfold State.checkConfigure at h
  iterate 6 (split at h; · cases h)
  rename_i hslot hbusy hspr hdelay hoff htaken
  refine ⟨by simpa using hslot, by simpa using hbusy, fun x hxoff hxspr hxdelay => ?_⟩
  have hwidth := outWidth_le hcfg
  have hxnat : x.bitOffset.toNat = off := by
    rw [hxoff, BitVec.toNat_ofNat, Nat.mod_eq_of_lt]
    omega
  refine ⟨hxspr ▸ hspr, hxdelay ▸ hdelay, by omega, by omega, fun j hj hr heq => htaken ?_⟩
  simp only [State.offsetTaken, List.any_eq_true]
  exact ⟨j, mem_allSlots j, by simp [hj, hr, ← heq, hxnat]⟩

/-- Slot 0 exists whatever N_MOTORS is (R11). -/
theorem isSlot_zero {s : State} (h : s.cfg.WF) : s.isSlot 0 = true :=
  (isSlot_iff s 0).2 (Nat.lt_of_lt_of_le Nat.zero_lt_two h.1)

/-- A command keeps the invariant (R162 to R166, R194, R195, R243); none runs while an emit is in flight. -/
theorem Invariant.after_exec {s t : State} {i : Instr} (h : Invariant s) (he : s.emitting = false)
    (hi : exec i s = .next t) : Invariant t := by
  have quiet := h.quiet he
  -- ZERO and SET_TARGET leave the calibration and the worker of their slot.
  have retarget {m : SlotIx} (x : Slot) (hm : s.registered m = true) (hx : SameCalibration (s.slot m) x)
      (hq : x.Quiet) (hw : x.w = (s.slot m).w) : Invariant (s.setSlot m x) :=
    h.after_setSlot he (isSlot_of_registered hm) (fun _ => (h.legalMotors.fits m hm).of_sameCalibration hx) hq hw
  rcases exec_cases hi with rfl | ⟨code, k, rfl⟩ | ⟨m, off, dinv, half, -, hc, rfl⟩ | ⟨m, -, -, hm, rfl⟩ |
    ⟨m, -, hm, rfl⟩ | ⟨m, -, hm, -, rfl⟩ | ⟨m, -, hb, -, -, ⟨-, rfl⟩ | ⟨-, rfl⟩⟩ | ⟨m, -, hb, hm, rfl⟩
  · exact h
  · exact h.congr rfl rfl rfl rfl rfl rfl rfl rfl rfl
  · -- CONFIGURE: the checks make the operands fit, and in IDLE the worker rests, whatever DELAY becomes.
    obtain ⟨hslot, hb, hfit⟩ := fits_of_checkConfigure h.cfg hc
    have hw : (s.slot m).w = .idle := h.workersRest (by simp [fsm_eq_idle hb he]) m
    obtain ⟨hcounter, hadv, hworker⟩ := quiet m
    exact h.after_setSlot he hslot (fun _ => hfit _ rfl rfl rfl)
      ⟨Slot.counterLegal_of_wcnt_eq_zero (by simp [hw]) (hcounter.awake (by simp [hw])), hadv, hworker⟩ rfl
  · -- RELEASE
    exact h.after_setSlot he (isSlot_of_registered hm) (fun hr => by cases hr)
      ((quiet m).congr rfl rfl rfl rfl) rfl
  · -- ZERO
    exact retarget _ hm ⟨rfl, rfl, rfl, rfl⟩ ((quiet m).congr rfl rfl rfl rfl) rfl
  · -- SET_TARGET
    exact retarget _ hm ⟨rfl, rfl, rfl, rfl⟩ ((quiet m).congr rfl rfl rfl rfl) rfl
  · -- RUN of Discipline A
    have hf := fsm_eq_idle hb he
    exact invariant_of_quiet (h.legalMotors.congr rfl rfl)
      (.of_awake (by simp) (h.sleepCnt_eq_zero (by simp [hf])) h.width h.pointers) quiet
      (fun _ => h.workersRest (by simp [hf])) (by simp) (by simp)
  · -- RUN of Discipline B
    have hf := fsm_eq_idle hb he
    exact invariant_restWorkers (h.legalMotors.congr rfl rfl)
      (.of_awake (by simp) (h.sleepCnt_eq_zero (by simp [hf])) h.width ⟨isSlot_zero h.cfg, h.pointers.2⟩)
      (fun m => (quiet m).adv) (by simp) (by simp)
  · -- WRNIB
    have hf := fsm_eq_idle hb he
    exact invariant_of_quiet (h.legalMotors.congr rfl rfl)
      (.of_awake (by simp) (h.sleepCnt_eq_zero (by simp [hf])) ⟨h.width.1, patch_mask ..⟩
        ⟨h.pointers.1, isSlot_of_registered hm⟩)
      quiet (fun _ => h.workersRest (by simp [hf])) (by simp) (by simp)

/-- Whatever transaction an edge accepts keeps the invariant. -/
theorem Invariant.after_hostTransaction {s s1 : State} (h : Invariant s) (hs : hostTransaction s = .next s1) :
    Invariant s1 := by
  rcases hostTransaction_cases hs with rfl | ⟨v, rfl⟩ | ⟨v, rfl⟩ | ⟨v, rfl⟩ | ⟨v, rfl⟩ | ⟨v, rfl⟩ | ⟨-, -, he, w, hw⟩
  · exact h
  iterate 5 exact h.congr rfl rfl rfl rfl rfl rfl rfl rfl rfl
  rcases runCommand_cases hw with ⟨m, rfl⟩ | ⟨i, -, hi⟩
  · exact h.congr rfl rfl rfl rfl rfl rfl rfl rfl rfl
  · exact h.after_exec he hi

/-! ## The engine step: Discipline A and WRNIB -/

/-- Clearing an empty ADV set changes nothing. -/
theorem clearAdv_eq_self {s : State} (h : ∀ m, (s.slot m).adv = false) : clearAdv s = s := by
  have hs : (clearAdv s).slots = s.slots := slots_ext fun m => by
    rw [slot_clearAdv]
    split
    · rw [← h m]
    · rfl
  calc clearAdv s = (clearAdv s).withSlots (clearAdv s).slots := (withSlots_slots_self _).symm
    _ = s.withSlots s.slots := by rw [clearAdv_withSlots, hs]
    _ = s := withSlots_slots_self s

/-- The holding word starts in a state with nothing pending and every worker at rest (R199, R218). -/
theorem Invariant.after_startHolding {s : State} (h : Invariant s) (hemit : s.fsm ≠ .emit) (hsleep : s.fsm ≠ .sleep)
    (hw : ∀ m, (s.slot m).w = .idle) (hp : s.anyPending = false) : Invariant (startHolding s) := by
  have same : SameMotors s (startHolding s) := sameMotors_of_slots rfl rfl
  have g : Grounded (startHolding s) :=
    ⟨h.legalMotors.congr rfl rfl,
      .of_awake (by simp [startHolding]) (h.sleepCnt_eq_zero hsleep)
        ⟨h.width.1, compose_mask s h.cfg _⟩ ⟨h.pointers.1, isSlot_zero h.cfg⟩,
      fun _ => hw, h.counters⟩
  refine g.invariant (h.adv_eq_false hemit) (fun hf => by cases hf) (fun m hm => ?_) fun _ =>
    ⟨(anyPending_eq_false_iff s).1 hp, same.holdingWord.symm, rfl⟩
  cases (hw m).symm.trans hm

/-- A tick sleeps at least one cycle, because every pending motor has a delay (R200). -/
theorem Invariant.maxPendingDelay_ne_zero {s : State} (h : Invariant s) (hp : s.anyPending = true) :
    BitVec.ofNat 32 s.maxPendingDelay ≠ 0 := by
  obtain ⟨-, m, hm, hmax⟩ := maxPendingDelay_spec s ((anyPending_iff s).1 hp)
  rw [hmax, BitVec.ofNat_toNat, BitVec.setWidth_eq]
  exact (h.legalMotors.fits m (registered_of_pending hm)).delay

/-- The tick's word shows every motor after its step, and the ADV set is the pending motors (R200, R204). -/
theorem Invariant.after_issueTick {s : State} (h : Invariant s) (hf : s.fsm = .eval) (hp : s.anyPending = true) :
    Invariant (issueTick s) := by
  have hw : ∀ m, (s.slot m).w = .idle := h.workersRest (by simp [hf])
  have same : SameMotors s (issueTick s) := by
    unfold issueTick
    refine .trans ?_ (sameMotors_mapSlots _ _ (by simp))
    exact sameMotors_of_slots rfl rfl
  have g : Grounded (issueTick s) := by
    unfold issueTick
    refine Grounded.mapSlots ?_ ?_ (fun _ => ⟨rfl, rfl, rfl, rfl⟩) (fun _ => hw)
      fun m => ⟨(h.counters m).awake, (h.counters m).asleep⟩
    · exact h.legalMotors.congr rfl rfl
    · exact .of_awake (by simp) (h.sleepCnt_eq_zero (by simp [hf])) ⟨h.width.1, compose_mask s h.cfg _⟩
        ⟨h.pointers.1, isSlot_zero h.cfg⟩
  have issued (m : SlotIx) : ((issueTick s).slot m).adv = s.pending m ∧
      (s.pending m = true → ((issueTick s).slot m).advDir = s.toward m) := by
    rw [slot_issueTick]
    cases hs : s.isSlot m
    · simp [h.absent m hs, Slot.reset, State.pending, State.registered, hs]
    · simp +contextual
  refine g.invariant (fun m => ?_) (fun _ => ⟨?_, fun m hm => ?_, ?_, ?_⟩) (fun m hm => ?_) (fun hf => ?_)
  · rw [same.pending, (issued m).1]; simp [issueTick]
  · simpa [issueTick] using h.maxPendingDelay_ne_zero hp
  · rw [same.toward]; exact (issued m).2 (same.pending m ▸ hm)
  · rw [same.compose, funext same.tickPos]; simp [issueTick]
  · simp [issueTick]
  · exact absurd hm (by rw [g.workersRest (by simp [issueTick]) m]; decide)
  · simp [issueTick] at hf

theorem Invariant.after_evalStep {s : State} (h : Invariant s) (hf : s.fsm = .eval) : Invariant (evalStep s) := by
  unfold evalStep
  split
  case isTrue hp => exact h.after_issueTick hf hp
  case isFalse hp =>
    have held := h.after_startHolding (by simp [hf]) (by simp [hf]) (h.workersRest (by simp [hf])) (by simpa using hp)
    rwa [clearAdv_eq_self (held.adv_eq_false (by simp [startHolding]))]

/-- The commit of a tick's step in a slot whose worker rests (R201). -/
theorem quiet_commit {x : Slot} (hw : x.w = .idle) (hc : x.CounterLegal) :
    SameCalibration x { (if x.adv then x.commitStep else x) with adv := false } ∧
      Slot.Quiet { (if x.adv then x.commitStep else x) with adv := false } ∧
      (if x.adv then x.commitStep else x).w = .idle := by
  have hne : x.w ≠ .emit := by simp [hw]
  split <;> exact ⟨⟨rfl, rfl, rfl, rfl⟩, ⟨⟨hc.awake, hc.asleep⟩, rfl, hne⟩, hw⟩

/-- The answer of a tick empties the ADV set (R201, R202). -/
theorem Invariant.after_emitStep {s : State} (h : Invariant s) (p : Pins) (hf : s.fsm = .emit) :
    Invariant (emitStep p s) := by
  have hw : ∀ m, (s.slot m).w = .idle := h.workersRest (by simp [hf])
  have hne (m : SlotIx) : (s.slot m).w ≠ .emit := by simp [hw m]
  unfold emitStep
  split
  · exact invariant_mapSlots_of_quiet (s := raiseHardwareIOError 0 { s with fsm := .idle })
      (h.legalMotors.congr rfl rfl) (.of_awake (by simp) (h.sleepCnt_eq_zero (by simp [hf])) h.width h.pointers)
      (fun _ => ⟨rfl, rfl, rfl, rfl⟩)
      (fun m => ⟨⟨(h.counters m).awake, (h.counters m).asleep⟩, rfl, hne m⟩) (fun _ => hw) (by simp) (by simp)
  split
  · have committed (m : SlotIx) := quiet_commit (hw m) (h.counters m)
    have hlen : 1 ≤ s.sleepLen.toNat :=
      Nat.one_le_iff_ne_zero.2 fun h0 => h.tickSleep hf (BitVec.eq_of_toNat_eq h0)
    exact invariant_mapSlots_of_quiet (s := { ackEmit s with sleepCnt := s.sleepLen, fsm := .sleep })
      (h.legalMotors.congr rfl rfl) ⟨by simpa using hlen, ⟨h.width.2, h.width.2⟩, h.pointers⟩
      (fun m => (committed m).1) (fun m => (committed m).2.1) (fun _ m => (committed m).2.2) (by simp) (by simp)
  · exact h

theorem Invariant.after_sleepStep {s : State} (h : Invariant s) (hf : s.fsm = .sleep) : Invariant (sleepStep s) := by
  have quiet := h.quiet_of_workersRest (by simp [hf]) (by simp [hf])
  have hw := h.workersRest (by simp [hf])
  have ht : 1 ≤ s.sleepCnt.toNat ∧ s.sleepCnt.toNat ≤ s.sleepLen.toNat := by simpa [hf] using h.timer
  unfold sleepStep
  split
  case isTrue hc =>
    refine invariant_of_quiet (h.legalMotors.congr rfl rfl) ⟨?_, h.width, h.pointers⟩ quiet (fun _ => hw) (by simp [hf])
      (by simp [hf])
    simp only [hf, if_true, toNat_sub_one hc]
    omega
  case isFalse hc =>
    exact invariant_of_quiet (h.legalMotors.congr rfl rfl) (.of_awake (by simp) rfl h.width h.pointers) quiet
      (fun _ => hw) (by simp) (by simp)

/-- A failed emit that no tick and no worker owns leaves the block in IDLE (R205, R244). -/
theorem Invariant.after_failure {s : State} (h : Invariant s) (k : SlotIx) (hf : s.fsm = .final ∨ s.fsm = .patch) :
    Invariant (raiseHardwareIOError k { s with fsm := .idle }) := by
  have hne : s.fsm ≠ .runb ∧ s.fsm ≠ .emit ∧ s.fsm ≠ .sleep := by rcases hf with hf | hf <;> simp [hf]
  exact invariant_of_quiet (h.legalMotors.congr rfl rfl)
    (.of_awake (by simp) (h.sleepCnt_eq_zero hne.2.2) h.width h.pointers) (h.quiet_of_workersRest hne.1 hne.2.1)
    (fun _ => h.workersRest hne.1) (by simp) (by simp)

/-- So does its acknowledge, and OUT is then the word of the emit. -/
theorem Invariant.after_acknowledge {s : State} (h : Invariant s) (d : Bool) (hf : s.fsm = .final ∨ s.fsm = .patch) :
    Invariant { ackEmit s with fsm := .idle, done := d } := by
  have hne : s.fsm ≠ .runb ∧ s.fsm ≠ .emit ∧ s.fsm ≠ .sleep := by rcases hf with hf | hf <;> simp [hf]
  exact invariant_of_quiet (h.legalMotors.congr rfl rfl)
    (.of_awake (by simp) (h.sleepCnt_eq_zero hne.2.2) ⟨h.width.2, h.width.2⟩ h.pointers)
    (h.quiet_of_workersRest hne.1 hne.2.1) (fun _ => h.workersRest hne.1) (by simp) (by simp)

theorem Invariant.after_finalStep {s : State} (h : Invariant s) (p : Pins) (hf : s.fsm = .final) :
    Invariant (finalStep p s) := by
  unfold finalStep
  split
  · exact h.after_failure 0 (.inl hf)
  split
  · exact h.after_acknowledge true (.inl hf)
  · exact h

theorem Invariant.after_patchStep {s : State} (h : Invariant s) (p : Pins) (hf : s.fsm = .patch) :
    Invariant (patchStep p s) := by
  unfold patchStep
  split
  · exact h.after_failure s.emot (.inr hf)
  split
  · exact h.after_acknowledge s.done (.inr hf)
  · exact h

/-! ## The engine step: Discipline B -/

theorem sameCalibration_workerStep (s : State) (a : Bool) (g : Option SlotIx) (m : SlotIx) (x : Slot) :
    SameCalibration x (workerStep s a g m x) := by
  unfold workerStep
  split <;> (repeat' split) <;> exact ⟨rfl, rfl, rfl, rfl⟩

theorem workerStep_adv (s : State) (a : Bool) (g : Option SlotIx) (m : SlotIx) (x : Slot) :
    (workerStep s a g m x).adv = x.adv := by
  unfold workerStep
  split <;> (repeat' split) <;> rfl

/-- A worker's counter starts at DELAY and ends at 0 (R213, R214). -/
theorem counterLegal_workerStep {s : State} {a : Bool} {g : Option SlotIx} {m : SlotIx} {x : Slot}
    (hx : x.CounterLegal) (hd : x.w = .emit → x.delay ≠ 0) : (workerStep s a g m x).CounterLegal := by
  unfold workerStep
  split
  case h_1 hw | h_2 hw =>
    have hx0 := hx.awake (by simp [hw])
    (repeat' split) <;> exact Slot.counterLegal_of_wcnt_eq_zero (by simp [hw]) hx0
  case h_3 hw =>
    split
    · have : x.delay.toNat ≠ 0 := fun h0 => hd hw (BitVec.eq_of_toNat_eq h0)
      exact ⟨fun hne => absurd rfl hne, fun _ => ⟨by dsimp only; omega, Nat.le_refl _⟩⟩
    · exact hx
  case h_4 hw =>
    split
    case isTrue hc =>
      have hx1 := hx.asleep hw
      have hx2 : 1 ≤ (x.wcnt - 1).toNat ∧ (x.wcnt - 1).toNat ≤ x.delay.toNat := by
        rw [toNat_sub_one hc]
        omega
      exact ⟨fun hne => absurd hw hne, fun _ => hx2⟩
    case isFalse => exact Slot.counterLegal_of_wcnt_eq_zero (by dsimp only; split <;> simp) rfl

/-- Every worker's transition, over a state with the slots of s, is grounded. -/
theorem Invariant.grounded_workersStep {s t : State} (h : Invariant s) (a : Bool) (g : Option SlotIx)
    (hr : LegalRegisters t) (hc : t.cfg = s.cfg) (hs : t.slots = s.slots) (ht : t.fsm = .runb) :
    Grounded (workersStep s a g t) := by
  refine Grounded.mapSlots (h.legalMotors.congr hc hs) hr (fun m => sameCalibration_workerStep ..)
    (fun hne => absurd ht hne) fun m => ?_
  rw [slot_congr hs]
  exact counterLegal_workerStep (h.counters m) fun hw =>
    (h.legalMotors.fits m (registered_of_pending (h.workerDir m hw).1)).delay

/-- After every worker's transition no slot is in the ADV set. -/
theorem Invariant.adv_workersStep {s t : State} (h : Invariant s) (hf : s.fsm = .runb) (a : Bool) (g : Option SlotIx)
    (hs : t.slots = s.slots) (m : SlotIx) : ((workersStep s a g t).slot m).adv = false := by
  have hadv := h.adv_eq_false (by simp [hf]) m
  rw [slot_workersStep, slot_congr hs]
  split
  · rw [workerStep_adv]; exact hadv
  · exact hadv

/-- A worker in W_EMIT after an edge was in it and unanswered, and stays as it was, or has just been granted. -/
theorem Invariant.emit_of_workersStep {s t : State} (h : Invariant s) {a : Bool} {g : Option SlotIx} {m : SlotIx}
    (hc : t.cfg = s.cfg) (hs : t.slots = s.slots) (hm : ((workersStep s a g t).slot m).w = .emit) :
    ((s.slot m).w = .emit ∧ a = false ∧ (workersStep s a g t).slot m = s.slot m) ∨
      ((s.slot m).w = .req ∧ g = some m ∧ s.pending m = true) := by
  have hslot : t.isSlot m = s.isSlot m := by simp only [State.isSlot, hc]
  rw [slot_workersStep, hslot, slot_congr hs] at hm ⊢
  cases hi : s.isSlot m
  · simp [hi, h.absent_idle hi] at hm
  · simp only [hi, if_true] at hm ⊢
    exact workerStep_emit hm

/-- The acknowledge of a worker's emit commits its step and leaves no emit in flight (R213). -/
theorem Invariant.after_workersStep_ack {s : State} (h : Invariant s) (hf : s.fsm = .runb) :
    Invariant (workersStep s true none (ackEmit s)) := by
  have g := h.grounded_workersStep true none (t := ackEmit s)
    (.of_awake (by simp [hf]) (h.sleepCnt_eq_zero (by simp [hf])) ⟨h.width.2, h.width.2⟩ h.pointers) rfl rfl hf
  refine g.invariant_of_workers (h.adv_workersStep hf true none rfl) (by simp [hf]) (by simp [hf]) fun m hm => ?_
  rcases h.emit_of_workersStep rfl rfl hm with ⟨-, ha, -⟩ | ⟨-, hg, -⟩
  · cases ha
  · cases hg

/-- An edge without an answer and without a grant keeps the worker's emit in flight as it is (R213, R215). -/
theorem Invariant.after_workersStep_none {s : State} (h : Invariant s) (hf : s.fsm = .runb) :
    Invariant (workersStep s false none s) := by
  have same : SameMotors s (workersStep s false none s) := sameMotors_workersStep ..
  have g := h.grounded_workersStep false none h.legalRegisters rfl rfl hf
  refine g.invariant_of_workers (h.adv_workersStep hf false none rfl) (by simp [hf]) (by simp [hf]) fun m hm => ?_
  rcases h.emit_of_workersStep rfl rfl hm with ⟨hw, -, hslot⟩ | ⟨-, hg, -⟩
  · obtain ⟨hpending, hdir⟩ := h.workerDir m hw
    rw [same.pending, same.toward, same.steppedPos, same.patch (by simp), hslot, workersStep_emot, workersStep_emitData]
    exact ⟨h.oneEmit m hw, ⟨hpending, hdir⟩, h.workerWord m hw⟩
  · cases hg

/-- RR after a grant names an existing slot (R216). -/
theorem isSlot_nextRr {s : State} (h : s.cfg.WF) (g : SlotIx) : s.isSlot (s.nextRr g) = true := by
  have hlt := Nat.mod_lt (g.val + 1) (Nat.lt_of_lt_of_le Nat.zero_lt_two h.1)
  have h16 := h.2.1
  rw [isSlot_iff, State.nextRr, Fin.val_ofNat, Nat.mod_eq_of_lt (by omega)]
  exact hlt

/-- The granted worker owns the only emit in flight: OUT with its nibble at the step issued toward its target (R217). -/
theorem Invariant.after_grantStep {s : State} (h : Invariant s) (hf : s.fsm = .runb) (hn : s.emittingWorker = none)
    {g : SlotIx} (hg : s.candidate g = true) : Invariant (grantStep g s) := by
  obtain ⟨hpending, hreq⟩ := (candidate_iff s g).1 hg
  have hslot := isSlot_of_pending hpending
  have grounded : Grounded (grantStep g s) :=
    h.grounded_workersStep false (some g)
      (.of_awake (by simp [hf]) (h.sleepCnt_eq_zero (by simp [hf])) ⟨h.width.1, patch_mask ..⟩
        ⟨isSlot_nextRr h.cfg g, hslot⟩) rfl rfl hf
  have same : SameMotors s (grantStep g s) := by
    unfold grantStep
    refine .trans ?_ (sameMotors_workersStep s _ (some g))
    exact sameMotors_of_slots rfl rfl
  refine grounded.invariant_of_workers (h.adv_workersStep hf false (some g) rfl)
    (by simp [grantStep, hf]) (by simp [grantStep, hf]) fun m hm => ?_
  rcases h.emit_of_workersStep rfl rfl hm with ⟨hw, -, -⟩ | ⟨-, hgm, -⟩
  · have he := h.emittingWorker_eq hw
    rw [hn] at he
    cases he
  · cases hgm
    rw [same.pending, same.toward, same.steppedPos, same.patch (by simp [grantStep]), slot_grantStep]
    simp [workerStep, hreq, hslot, hpending, grantStep]

theorem Invariant.after_runbStep {s : State} (h : Invariant s) (p : Pins) (hf : s.fsm = .runb) :
    Invariant (runbStep p s) := by
  have hadv := h.adv_eq_false (by simp [hf])
  unfold runbStep
  split
  case h_1 e he =>
    split
    · exact invariant_restWorkers (s := raiseHardwareIOError e { s with fsm := .idle }) (h.legalMotors.congr rfl rfl)
        (.of_awake (by simp) (h.sleepCnt_eq_zero (by simp [hf])) h.width h.pointers) hadv (by simp) (by simp)
    split
    · exact h.after_workersStep_ack hf
    · exact h.after_workersStep_none hf
  case h_2 hn =>
    split
    case isTrue hend =>
      obtain ⟨hidle, hp⟩ : s.allWorkersIdle = true ∧ s.anyPending = false := by simpa using hend
      refine h.after_startHolding (by simp [hf]) (by simp [hf]) (fun m => ?_) hp
      cases hs : s.isSlot m
      · exact h.absent_idle hs
      · exact (allWorkersIdle_iff s).1 hidle m hs
    case isFalse =>
      split
      case h_1 g hg => exact h.after_grantStep hf hn (arbiterChoice_some hg).1
      case h_2 => exact h.after_workersStep_none hf

/-! ## The edge -/

/-- The engine step of the FSM state a state is in keeps the invariant. -/
theorem Invariant.after_engineStep {s : State} (h : Invariant s) (p : Pins) : Invariant (engineStep s.fsm p s) := by
  cases hf : s.fsm with
  | idle => exact h
  | eval => exact h.after_evalStep hf
  | emit => exact h.after_emitStep p hf
  | sleep => exact h.after_sleepStep hf
  | final => exact h.after_finalStep p hf
  | patch => exact h.after_patchStep p hf
  | runb => exact h.after_runbStep p hf

/-- The surroundings of an edge are not in the invariant. -/
theorem Invariant.after_advance {s : State} (h : Invariant s) (s0 : State) : Invariant (advance s0 s) :=
  h.congr rfl rfl rfl rfl rfl rfl rfl rfl rfl

@[simp] theorem slot_resetWith (cfg : Config) (pins : List Pins) (host : List BusCycle) (edge : Nat) (m : SlotIx) :
    (State.resetWith cfg pins host edge).slot m = Slot.reset := by
  simp [State.slot, State.resetWith]

/-- The reset state has, for all legal parameters, the invariant (R60). -/
theorem invariant_resetWith {cfg : Config} (h : cfg.WF) (pins : List Pins) (host : List BusCycle) (edge : Nat) :
    Invariant (State.resetWith cfg pins host edge) := by
  have zero : (State.resetWith cfg pins host edge).isSlot 0 = true := isSlot_zero h
  refine invariant_of_quiet ⟨h, fun m _ => slot_resetWith .., fun m hm => ?_⟩
    (.of_awake (by simp [State.resetWith]) rfl ⟨BitVec.zero_and .., BitVec.zero_and ..⟩ ⟨zero, zero⟩)
    (fun m => slot_resetWith .. ▸ Slot.quiet_reset) (fun _ m => by rw [slot_resetWith]; rfl) (by simp [State.resetWith])
    (by simp [State.resetWith])
  simp [State.registered, Slot.reset] at hm

theorem Invariant.after_step {s t : State} (h : Invariant s) (ht : step s = .next t) : Invariant t := by
  rcases step_cases ht with ⟨-, rfl⟩ | ⟨-, s1, h1, rfl⟩
  · exact invariant_resetWith h.cfg ..
  · have inv1 := h.after_hostTransaction h1
    refine Invariant.after_advance ?_ s
    by_cases hf : s.fsm = .idle
    · rw [hf]; exact inv1
    · rw [← hostTransaction_fsm h1 hf]; exact inv1.after_engineStep s.pin

/-- Settles O49: the default parameters are legal, and `invariant_resetWith` holds for all that are. -/
theorem invariantHoldsAtReset : Obligations.InvariantHoldsAtReset :=
  invariant_resetWith (by decide) ..

/-- Settles O50: a reset edge leaves a reset state; at every other edge the accepted transaction keeps the invariant,
and the engine step of the FSM state it leaves keeps it too. -/
theorem everyStepKeepsTheInvariant : Obligations.EveryStepKeepsTheInvariant := fun _ _ h ht => h.after_step ht

end Sys2Proof.Machine

/-! PROOFS. The host register space (spec/10_state.md R31 to R46, R60, R61; spec/20_memory.md R82, R84, R87, R88):
which register an address reaches, what the global registers read as, and what a write does. -/

namespace Sys2Proof.Machine

open Sys2Proof.Claims

/-! ## The address map, both ways (R31, R32) -/

/-- The word address of a global register (R31). -/
def GlobalReg.addr : GlobalReg → Addr
  | .cap => 0x000
  | .ctrl => 0x004
  | .status => 0x008
  | .out => 0x00C
  | .cmd => 0x010
  | .argLo => 0x014
  | .argHi => 0x018
  | .emitData => 0x01C
  | .timer => 0x020
  | .sleepLen => 0x024
  | .adv => 0x028
  | .arb => 0x02C

/-- The offset of a slot register in its slot (R32). -/
def SlotReg.offset : SlotReg → Nat
  | .mcfg => 0x00
  | .spr => 0x04
  | .delay => 0x08
  | .mstate => 0x0C
  | .posLo => 0x10
  | .posHi => 0x14
  | .tgtLo => 0x18
  | .tgtHi => 0x1C
  | .mpos => 0x20
  | .wcnt => 0x24

theorem globalRegAt_addr (r : GlobalReg) : globalRegAt r.addr.toNat = .global r := by cases r <;> rfl

theorem eq_addr_of_globalRegAt {n : Nat} {r : GlobalReg} (h : globalRegAt n = .global r) : n = r.addr.toNat := by
  unfold globalRegAt at h
  split at h <;> cases h <;> rfl

theorem slotRegAt_offset (m : SlotIx) (r : SlotReg) : slotRegAt m r.offset = .slot m r := by cases r <;> rfl

theorem eq_offset_of_slotRegAt {m k : SlotIx} {off : Nat} {r : SlotReg} (h : slotRegAt m off = .slot k r) :
    k = m ∧ off = r.offset := by
  unfold slotRegAt at h
  split at h <;> cases h <;> exact ⟨rfl, rfl⟩

theorem slotRegAt_ne_global (m : SlotIx) (off : Nat) (r : GlobalReg) : slotRegAt m off ≠ .global r := by
  unfold slotRegAt
  split <;> simp

theorem globalRegAt_ne_slot (n : Nat) (m : SlotIx) (r : SlotReg) : globalRegAt n ≠ .slot m r := by
  unfold globalRegAt
  split <;> simp

/-- An address reaches a global register exactly at the byte addresses of its word (R31, R87). -/
theorem regAt_eq_global_iff (s : State) (a : Addr) (r : GlobalReg) :
    s.regAt a = .global r ↔ a &&& 0xFFC#12 = r.addr := by
  constructor
  · intro h
    by_cases hlt : wordAddr a < 0x100
    · rw [regAt_of_lt s hlt] at h
      exact (wordAddr_iff a _).1 (eq_addr_of_globalRegAt h)
    · rcases regAt_high s (not_lt.1 hlt) with h' | ⟨m, off, -, -, -, h'⟩
      · rw [h'] at h; cases h
      · exact absurd (h'.symm.trans h) (slotRegAt_ne_global m off r)
  · intro h
    rw [regAt_global s h (by cases r <;> decide), globalRegAt_addr]

/-- An address reaches a register of slot m exactly at its offset in an existing slot (R32). -/
theorem regAt_eq_slot_iff (s : State) (a : Addr) (m : SlotIx) (r : SlotReg) :
    s.regAt a = .slot m r ↔ m.val < s.cfg.nMotors ∧ wordAddr a = 0x100 + 0x40 * m.val + r.offset := by
  constructor
  · intro h
    by_cases hlt : wordAddr a < 0x100
    · rw [regAt_of_lt s hlt] at h
      exact absurd h (globalRegAt_ne_slot _ m r)
    · rcases regAt_high s (not_lt.1 hlt) with h' | ⟨k, off, -, hk, ha, h'⟩
      · rw [h'] at h; cases h
      · obtain ⟨rfl, rfl⟩ := eq_offset_of_slotRegAt (h'.symm.trans h)
        exact ⟨hk, ha⟩
  · rintro ⟨hm, ha⟩
    rw [regAt_slot s ha (by cases r <;> decide) hm, slotRegAt_offset]

theorem readReg_of_global {s : State} {a : Addr} {r : GlobalReg} (h : a &&& 0xFFC#12 = r.addr) :
    readReg s a = globalRead s r := by
  simp [readReg, (regAt_eq_global_iff s a r).2 h]

/-! ## The words that are sums of fields (R33, R34, R36, R46) -/

theorem toNat_capWord {cfg : Config} (h : cfg.WF) : (capWord cfg).toNat = cfg.nMotors + 256 * cfg.outWidth := by
  have := h.2.1
  have := outWidth_le h
  simp only [capWord, atBit, BitVec.toNat_ofNat]
  omega

theorem toNat_ctrlWord (s : State) :
    (ctrlWord s).toNat = s.mode.bit.toNat + 256 * s.ieDone.toNat + 512 * s.ieErr.toNat := by
  have := Bool.toNat_le s.mode.bit
  have := Bool.toNat_le s.ieDone
  have := Bool.toNat_le s.ieErr
  simp only [ctrlWord, atBit, BitVec.toNat_ofNat]
  omega

theorem code_eq_fsmNumber (f : Fsm) : f.code = fsmNumber f := by cases f <;> rfl

theorem code_eq_errNumber (e : ErrCode) : e.code = errNumber e := by cases e <;> rfl

theorem fsmNumber_lt (f : Fsm) : fsmNumber f < 8 := by cases f <;> decide

theorem errNumber_lt (e : ErrCode) : errNumber e < 16 := by cases e <;> decide

theorem toNat_statusWord (s : State) : (statusWord s).toNat =
    s.busy.toNat + 2 * s.emitting.toNat + 4 * s.done.toNat + 8 * s.cfgErr.toNat + 16 * s.ioErr.toNat +
      32 * s.runMode.bit.toNat + 256 * fsmNumber s.fsm + 4096 * errNumber s.errCode + 65536 * s.errMotor.val := by
  have := Bool.toNat_le s.busy
  have := Bool.toNat_le s.emitting
  have := Bool.toNat_le s.done
  have := Bool.toNat_le s.cfgErr
  have := Bool.toNat_le s.ioErr
  have := Bool.toNat_le s.runMode.bit
  have := fsmNumber_lt s.fsm
  have := errNumber_lt s.errCode
  have := s.errMotor.isLt
  simp only [statusWord, atBit, code_eq_fsmNumber, code_eq_errNumber, BitVec.toNat_ofNat]
  omega

theorem toNat_arbWord (s : State) : (arbWord s).toNat = s.rr.val + 256 * s.emot.val := by
  have := s.rr.isLt
  have := s.emot.isLt
  simp only [arbWord, atBit, BitVec.toNat_ofNat]
  omega

theorem bit_eq_true_iff (d : Discipline) : d.bit = true ↔ d = .b := by cases d <;> simp [Discipline.bit]

/-- `busy()` is the set of R61. -/
theorem busy_iff (s : State) : s.busy = true ↔ s.fsm ∈ [Fsm.eval, .emit, .sleep, .final, .runb] := by
  cases hf : s.fsm <;> simp [State.busy, hf]

/-- `emitting()` is the set of R61. -/
theorem emitting_iff_emitInFlight (s : State) : s.emitting = true ↔ emitInFlight s := by
  cases hf : s.fsm <;> simp [State.emitting, emitInFlight, hf, anyWorkerEmitting_iff, isSlot_iff]

/-! ## ADV (R45) -/

/-- The part of ADV that one slot gives: ADV[m] in bit m and ADV_DIR[m] in bit 16 + m. -/
def advBits (s : State) (m : SlotIx) : Word :=
  BitVec.ofNat 32 (atBit m.val (s.slot m).adv.toNat + atBit (16 + m.val) (s.slot m).advDir.toNat)

theorem getLsbD_advFold (s : State) (b : Nat) (l : List SlotIx) (acc : Word) :
    (l.foldl (fun acc m => if s.isSlot m then acc ||| advBits s m else acc) acc).getLsbD b = true ↔
      acc.getLsbD b = true ∨ ∃ m ∈ l, s.isSlot m = true ∧ (advBits s m).getLsbD b = true := by
  induction l generalizing acc with
  | nil => simp
  | cons x l ih =>
    rw [List.foldl_cons, ih]
    cases hx : s.isSlot x <;> simp [hx, or_assoc]

theorem testBit_atBit_toNat (lo : Nat) (x : Bool) (b : Nat) :
    (atBit lo x.toNat).testBit b = (decide (lo = b) && x) := by
  cases x <;> simp [atBit, Nat.testBit_two_pow]

/-- Bit b of a slot's part of ADV. -/
theorem getLsbD_advBits (s : State) (m : SlotIx) {b : Nat} (hb : b < 32) :
    (advBits s m).getLsbD b =
      ((decide (m.val = b) && (s.slot m).adv) || (decide (16 + m.val = b) && (s.slot m).advDir)) := by
  have hlt : atBit m.val (s.slot m).adv.toNat < 2 ^ (16 + m.val) :=
    calc atBit m.val (s.slot m).adv.toNat ≤ 1 * 2 ^ m.val := Nat.mul_le_mul_right _ (Bool.toNat_le _)
      _ < 2 ^ (16 + m.val) := by rw [one_mul]; exact Nat.pow_lt_pow_right (by decide) (by omega)
  have hsum : atBit m.val (s.slot m).adv.toNat + atBit (16 + m.val) (s.slot m).advDir.toNat =
      2 ^ (16 + m.val) * (s.slot m).advDir.toNat + atBit m.val (s.slot m).adv.toNat := by
    rw [Nat.add_comm]; congr 1; exact Nat.mul_comm ..
  rw [advBits, hsum, BitVec.getLsbD_ofNat, Nat.testBit_two_pow_mul_add _ hlt, testBit_atBit_toNat]
  by_cases h : b < 16 + m.val
  · simp [hb, h, show ¬ 16 + m.val = b by omega]
  · have h16 : (s.slot m).advDir.toNat.testBit (b - (16 + m.val)) = (decide (16 + m.val = b) && (s.slot m).advDir) := by
      have := testBit_atBit_toNat 0 (s.slot m).advDir (b - (16 + m.val))
      rw [atBit, pow_zero, mul_one] at this
      rw [this, show decide (0 = b - (16 + m.val)) = decide (16 + m.val = b) from decide_eq_decide.2 (by omega)]
    simp [hb, h, h16, show ¬ m.val = b by omega]

/-- Bit b of ADV is set by the slot whose bit it is (R45). -/
theorem getLsbD_advWord (s : State) {b : Nat} (hb : b < 32) : (advWord s).getLsbD b = true ↔
    ∃ m, s.isSlot m = true ∧ ((m.val = b ∧ (s.slot m).adv = true) ∨ (16 + m.val = b ∧ (s.slot m).advDir = true)) := by
  rw [show advWord s = allSlots.foldl (fun acc m => if s.isSlot m then acc ||| advBits s m else acc) 0 from rfl,
    getLsbD_advFold]
  simp [mem_allSlots, getLsbD_advBits s _ hb]

theorem getLsbD_advWord_adv (s : State) (m : SlotIx) :
    (advWord s).getLsbD m.val = (s.isSlot m && (s.slot m).adv) := by
  rw [Bool.eq_iff_iff, getLsbD_advWord s (by omega), Bool.and_eq_true]
  constructor
  · rintro ⟨k, hk, ⟨hkm, hadv⟩ | ⟨hkm, -⟩⟩
    · obtain rfl : k = m := Fin.ext hkm
      exact ⟨hk, hadv⟩
    · omega
  · rintro ⟨hm, hadv⟩
    exact ⟨m, hm, .inl ⟨rfl, hadv⟩⟩

theorem getLsbD_advWord_advDir (s : State) (m : SlotIx) :
    (advWord s).getLsbD (16 + m.val) = (s.isSlot m && (s.slot m).advDir) := by
  rw [Bool.eq_iff_iff, getLsbD_advWord s (by omega), Bool.and_eq_true]
  constructor
  · rintro ⟨k, hk, ⟨hkm, -⟩ | ⟨hkm, hdir⟩⟩
    · omega
    · obtain rfl : k = m := Fin.ext (by omega)
      exact ⟨hk, hdir⟩
  · rintro ⟨hm, hdir⟩
    exact ⟨m, hm, .inr ⟨rfl, hdir⟩⟩

/-! ## After reset (R60, R291) -/

theorem globalRead_reset (r : GlobalReg) : globalRead State.reset r = if r = .cap then 0x00000802#32 else 0 := by
  cases r <;> decide

theorem slotRead_reset (m : SlotIx) (r : SlotReg) :
    slotRead State.reset m r = if r = .mstate then 0x00000030#32 else 0 := by
  revert m
  cases r <;> decide

/-- With the default parameters two addresses reach the MSTATE of a slot. -/
theorem regAt_reset_mstate_iff (a : Addr) : (∃ m, State.reset.regAt a = .slot m .mstate) ↔
    a &&& 0xFFC#12 = 0x10C#12 ∨ a &&& 0xFFC#12 = 0x14C#12 := by
  have word (b : Addr) : a &&& 0xFFC#12 = b ↔ wordAddr a = b.toNat := (wordAddr_iff a b).symm
  have two (m : SlotIx) : m.val < State.reset.cfg.nMotors ↔ m = 0 ∨ m = 1 := by revert m; decide
  simp only [regAt_eq_slot_iff, two, or_and_right, exists_or, exists_eq_left, word]
  rfl

/-! ## Writes (R35, R37, R84, R88) -/

theorem writeEffect_ctrl {a : Addr} (h : a &&& 0xFFC#12 = 0x004#12) (v : Word) (s : State) :
    writeEffect a v s = .next (writeCtrl v s) := by
  simp [writeEffect, (regAt_eq_global_iff s a .ctrl).2 h]

theorem writeEffect_status {a : Addr} (h : a &&& 0xFFC#12 = 0x008#12) (v : Word) (s : State) :
    writeEffect a v s = .next (writeStatus v s) := by
  simp [writeEffect, (regAt_eq_global_iff s a .status).2 h]

theorem writeEffect_cmd {a : Addr} (h : a &&& 0xFFC#12 = 0x010#12) (v : Word) (s : State) :
    writeEffect a v s = runCommand v s := by
  simp [writeEffect, (regAt_eq_global_iff s a .cmd).2 h]

theorem writeEffect_argLo {a : Addr} (h : a &&& 0xFFC#12 = 0x014#12) (v : Word) (s : State) :
    writeEffect a v s = .next { s with argLo := v } := by
  simp [writeEffect, (regAt_eq_global_iff s a .argLo).2 h]

theorem writeEffect_argHi {a : Addr} (h : a &&& 0xFFC#12 = 0x018#12) (v : Word) (s : State) :
    writeEffect a v s = .next { s with argHi := v } := by
  simp [writeEffect, (regAt_eq_global_iff s a .argHi).2 h]

/-- A write to any other address has no effect (R84, R88). -/
theorem writeEffect_other {a : Addr} (h : a &&& 0xFFC#12 ∉ [0x004#12, 0x008#12, 0x010#12, 0x014#12, 0x018#12])
    (v : Word) (s : State) : writeEffect a v s = .next s := by
  have ne (r : GlobalReg) (hr : r.addr ∈ [0x004#12, 0x008#12, 0x010#12, 0x014#12, 0x018#12]) :
      s.regAt a ≠ .global r := fun hat => h ((regAt_eq_global_iff s a r).1 hat ▸ hr)
  unfold writeEffect
  split
  case h_1 hat => exact absurd hat (ne .ctrl (by decide))
  case h_2 hat => exact absurd hat (ne .status (by decide))
  case h_3 hat => exact absurd hat (ne .argLo (by decide))
  case h_4 hat => exact absurd hat (ne .argHi (by decide))
  case h_5 hat => exact absurd hat (ne .cmd (by decide))
  case h_6 => rfl

/-! ## The obligations -/

/-- Settles O55: the address map sends each address to its register, whose read value is the stored field or the word of
one of the lemmas above. -/
theorem globalRegistersReadTheirFields : Obligations.GlobalRegistersReadTheirFields := by
  intro s a
  have read (r : GlobalReg) (h : a &&& 0xFFC#12 = r.addr) : readReg s a = globalRead s r := readReg_of_global h
  refine ⟨busRdata_of_read, fun h hwf => ?cap, fun h => ?ctrl, fun h => ?status, fun h hwf => ?out, read .cmd,
    read .argLo, read .argHi, fun h hwf => ?emitData, read .timer, read .sleepLen, fun h m => ?adv, fun h => ?arb⟩
  case cap => rw [read .cap h]; exact toNat_capWord hwf
  case ctrl =>
    rw [read .ctrl h, globalRead, toNat_ctrlWord]
    simp only [Bool.toNat, Bool.cond_eq_ite, bit_eq_true_iff, mul_ite, mul_one, mul_zero]
  case status =>
    rw [read .status h, globalRead, toNat_statusWord]
    simp only [Bool.toNat, Bool.cond_eq_ite, bit_eq_true_iff, busy_iff, emitting_iff_emitInFlight, mul_ite, mul_one,
      mul_zero]
  case out => rw [read .out h]; exact toNat_and_outMask (outWidth_le hwf) s.out
  case emitData => rw [read .emitData h]; exact toNat_and_outMask (outWidth_le hwf) s.emitData
  case adv => rw [read .adv h]; exact ⟨getLsbD_advWord_adv s m, getLsbD_advWord_advDir s m⟩
  case arb => rw [read .arb h]; exact toNat_arbWord s

/-- Settles O54: one lemma for each writable register, and `writeEffect_other` for every other address. -/
theorem writesReachOnlyTheWritableRegisters : Obligations.WritesReachOnlyTheWritableRegisters := by
  intro s a v
  refine ⟨fun h hb => ?busy, fun h hb => ?rest, fun h => writeEffect_argLo h v s, fun h => writeEffect_argHi h v s,
    fun h => writeEffect_cmd h v s, fun h => writeEffect_other h v s⟩
  case busy => rw [writeEffect_ctrl h, writeCtrl, if_pos hb]
  case rest => rw [writeEffect_ctrl h, writeCtrl, hb]; rfl

/-- Settles O57: such an address reaches no register (`regAt_unmapped`). -/
theorem unmappedAddressesReadZeroAndIgnoreWrites : Obligations.UnmappedAddressesReadZeroAndIgnoreWrites := by
  intro s a v h
  have hat : s.regAt a = .unmapped := regAt_unmapped s h
  exact ⟨readReg_of_unmapped hat, by simp [readEffect, hat], by simp [writeEffect, hat]⟩

/-- Settles O60: an address reaches a global register, of which only CAP is not 0; a slot register, of which only MSTATE
is not 0; or nothing. -/
theorem registersReadZeroAfterReset : Obligations.RegistersReadZeroAfterReset := by
  intro a
  have hcap : a &&& 0xFFC#12 = 0x000#12 ↔ State.reset.regAt a = .global .cap := (regAt_eq_global_iff _ a .cap).symm
  simp only [hcap, ← regAt_reset_mstate_iff, readReg]
  cases State.reset.regAt a with
  | global r => simp [globalRead_reset]
  | slot m r => simp [slotRead_reset]
  | unmapped => simp

end Sys2Proof.Machine

/-! PROOFS. What a command leaves as it was (spec/41_motor.md R162 to R166; spec/42_scheduler.md R194, R195;
spec/43_output.md R243), and the edge that runs one (spec/42_scheduler.md R191, R192; spec/30_encoding.md R113). -/

namespace Sys2Proof.Machine

open Sys2Proof.Claims

/-! ## The frame of a command -/

/-- What command i leaves of the registers: those that the host writes, and SNAP, in any case (R34, R41, R58); RR,
RUN_MODE and DONE unless it is RUN (R195); the emit unless it is WRNIB (R243); the FSM state unless it is one of the
two. -/
structure RegistersKept (i : Instr) (s t : State) : Prop where
  host : t.snap = s.snap ∧ t.argLo = s.argLo ∧ t.argHi = s.argHi ∧ t.mode = s.mode ∧ t.ieDone = s.ieDone ∧
    t.ieErr = s.ieErr
  run : (∀ m, i ≠ .run m) → t.rr = s.rr ∧ t.runMode = s.runMode ∧ t.done = s.done
  emit : (∀ m, i ≠ .wrnib m) → t.emitData = s.emitData ∧ t.emot = s.emot
  fsm : (∀ m, i ≠ .run m ∧ i ≠ .wrnib m) → t.fsm = s.fsm

theorem exec_registersKept {i : Instr} {s t : State} (h : exec i s = .next t) : RegistersKept i s t := by
  rcases exec_cases h with rfl | ⟨_, _, rfl⟩ | ⟨m, _, _, _, rfl, _, rfl⟩ | ⟨m, rfl, _, _, rfl⟩ | ⟨m, rfl, _, rfl⟩ |
    ⟨m, rfl, _, _, rfl⟩ | ⟨m, rfl, _, _, _, ⟨_, rfl⟩ | ⟨_, rfl⟩⟩ | ⟨m, rfl, _, _, rfl⟩ <;> constructor <;> simp

/-- What command i leaves of the contents x of slot j, which become y: all but the worker unless it names the slot, and
in any case the step bits; the worker too unless it is RUN. -/
structure SlotKept (i : Instr) (j : SlotIx) (x y : Slot) : Prop where
  unnamed : namedSlot i ≠ some j → { y with w := x.w, wcnt := x.wcnt } = x
  stepBits : y.adv = x.adv ∧ y.advDir = x.advDir
  worker : (∀ m, i ≠ .run m) → y.w = x.w ∧ y.wcnt = x.wcnt

theorem SlotKept.refl (i : Instr) (j : SlotIx) (x : Slot) : SlotKept i j x x :=
  ⟨fun _ => rfl, ⟨rfl, rfl⟩, fun _ => ⟨rfl, rfl⟩⟩

theorem exec_slotKept {i : Instr} {s t : State} (h : exec i s = .next t) (j : SlotIx) :
    SlotKept i j (s.slot j) (t.slot j) := by
  have named {m : SlotIx} {x : Slot} (hi : namedSlot i = some m)
      (hx : (x.adv = (s.slot m).adv ∧ x.advDir = (s.slot m).advDir) ∧ x.w = (s.slot m).w ∧ x.wcnt = (s.slot m).wcnt) :
      SlotKept i j (s.slot j) ((s.setSlot m x).slot j) := by
    by_cases hj : j = m
    · subst hj
      rw [slot_setSlot_self]
      exact ⟨fun hne => absurd hi hne, hx.1, fun _ => hx.2⟩
    · rw [slot_setSlot_ne s x hj]
      exact .refl ..
  have same {u : State} (hu : u.slots = s.slots) : SlotKept i j (s.slot j) (u.slot j) := by
    rw [slot_congr hu]
    exact .refl ..
  rcases exec_cases h with rfl | ⟨_, _, rfl⟩ | ⟨m, _, _, _, rfl, _, rfl⟩ | ⟨m, rfl, _, _, rfl⟩ | ⟨m, rfl, _, rfl⟩ |
    ⟨m, rfl, _, _, rfl⟩ | ⟨m, rfl, _, _, _, ⟨_, rfl⟩ | ⟨_, rfl⟩⟩ | ⟨m, rfl, _, _, rfl⟩
  · exact same rfl
  · exact same rfl
  iterate 4 exact named rfl ⟨⟨rfl, rfl⟩, rfl, rfl⟩
  · exact same rfl
  · -- RUN of Discipline B puts the workers of the existing slots to rest.
    rw [slot_restWorkers]
    split
    · exact ⟨fun _ => rfl, ⟨rfl, rfl⟩, fun hne => absurd rfl (hne m)⟩
    · exact .refl ..
  · exact same rfl

/-- Settles O20: every command answers a next state (`exec_next`), and what it leaves is `exec_frame`,
`exec_registersKept` and `exec_slotKept`. -/
theorem commandsLeaveTheRestUnchanged : Obligations.CommandsLeaveTheRestUnchanged := by
  intro i s
  obtain ⟨t, ht⟩ := exec_next i s
  obtain ⟨hcfg, hpins, hhost, hedge, hout, hlatch, hcnt, hlen, hio⟩ := exec_frame ht
  obtain ⟨⟨hsnap, hlo, hhi, hmode, hdone, herr⟩, hrun, hemit, hfsm⟩ := exec_registersKept ht
  have kept := exec_slotKept ht
  refine ⟨t, ht, hout, hsnap, hlo, hhi, hmode, hdone, herr, hio, hcnt, hlen, hcfg, hpins, hhost, hedge, hlatch,
    fun j => (kept j).unnamed, fun j => (kept j).stepBits, fun hi => ?_, hemit, hfsm⟩
  obtain ⟨hrr, hmode, hdone⟩ := hrun hi
  exact ⟨hrr, hmode, hdone, fun j => (kept j).worker hi⟩

/-! ## The edge that runs a command -/

/-- A word with OP in 0x7 to 0xF is refused by name, with the slot of its MOTOR field (R113). -/
theorem decode_of_reserved {w : Word} (h : 7 ≤ bits w 3 0) :
    decode w = .error (.reservedOpcode (opField w) (Sys2Proof.motorField w)) := by
  have hop : 7 ≤ (opField w).toNat := by simpa [opField_toNat, bits] using h
  unfold decode
  split
  case h_8 => rfl
  all_goals omega

/-- The MOTOR field is CMD[11:8] (R111). -/
theorem motorField_eq_motorOf (w : Word) : Sys2Proof.motorField w = motorOf w := by
  apply Fin.ext
  rw [motorField_val, motorOf, Fin.val_ofNat, bits]
  omega

theorem runCommand_of_ok {w : Word} {i : Instr} (h : decode w = .ok i) (s : State) : runCommand w s = exec i s := by
  simp [runCommand, h]

theorem runCommand_of_reserved {w : Word} (h : 7 ≤ bits w 3 0) (s : State) :
    runCommand w s = .next (withError .badOpcode (motorOf w) s) := by
  rw [runCommand, decode_of_reserved h, ← motorField_eq_motorOf]
  rfl

theorem isCmdWrite_write (a : Addr) (v : Word) :
    (BusCycle.write a v).isCmdWrite = true ↔ a &&& 0xFFC#12 = 0x010#12 := by
  rw [← wordAddr_iff]
  simp [BusCycle.isCmdWrite]

/-- Every request is accepted in its cycle but a write to CMD while an emit is in flight (R81, R221). -/
theorem accepted_of_not_held {s : State} (hv : s.request.valid = true)
    (h : s.request.isCmdWrite = false ∨ s.emitting = false) : s.accepted = true := by
  rcases h with h | h <;> simp [State.accepted, State.busReady, hv, h]

/-- An edge that accepts a write, from what the write does to the state of the cycle: the engine step follows, and the
request leaves the host's queue. -/
theorem step_of_write {s t : State} {a : Addr} {w : Word} {rest : List BusCycle} (hr : s.pin.rst = false)
    (hh : s.host = .write a w :: rest) (ha : a &&& 0xFFC#12 ≠ 0x010#12 ∨ s.emitting = false)
    (ht : writeEffect a w s = .next t) :
    step s = .next { engineStep s.fsm s.pin t with pins := s.pins.tail, host := rest, edge := s.edge + 1 } := by
  have hq : s.request = .write a w := by simp [State.request, hh]
  have hacc : s.accepted = true := by
    refine accepted_of_not_held (by rw [hq]; rfl) (ha.imp_left fun hne => ?_)
    rw [hq, ← Bool.not_eq_true, isCmdWrite_write]
    exact hne
  have hrest : s.hostAfter = rest := by simp [State.hostAfter, hq, hacc, hr, hh]
  rw [step_eq hr ((hostTransaction_of_write hq ha).trans ht), advance, hrest]

/-- Settles O24: the write to CMD is accepted, and its effect is the command or the record of BAD_OPCODE. -/
theorem stepRunsTheDecodedCommand : Obligations.StepRunsTheDecodedCommand := by
  intro s a w rest hr he hh ha
  have run (t : State) (ht : runCommand w s = .next t) :=
    step_of_write hr hh (.inr he) ((writeEffect_cmd ha w s).trans ht)
  exact ⟨fun i t hd ht => run t ((runCommand_of_ok hd s).trans ht), fun hop => run _ (runCommand_of_reserved hop s)⟩

end Sys2Proof.Machine

/-! PROOFS. The coil pattern (spec/41_motor.md R161), and the words on the emit port nibble by nibble
(spec/43_output.md R245, R251). -/

namespace Sys2Proof.Machine

open Sys2Proof.Claims

/-! ## The coil pattern (R55, R161) -/

/-- Reading backwards from position 0 is reading forwards at the negated position (R161). -/
theorem seqIndex_inverted {x : Slot} (h : x.dirInv = true) (p : ℤ) :
    x.seqIndex p = { x with dirInv := false }.seqIndex (-p) := by
  simp only [Slot.seqIndex, Slot.phase, Slot.seqLen, h, if_true, Bool.false_eq_true, if_false]
  cases x.half <;> simp only [Bool.false_eq_true, if_true, if_false] <;> omega

theorem seqIndex_full {x : Slot} (hd : x.dirInv = false) (hh : x.half = false) (p : ℤ) :
    x.seqIndex p = (p % 4).toNat := by
  simp [Slot.seqIndex, Slot.phase, Slot.seqLen, hd, hh]

theorem seqIndex_half {x : Slot} (hd : x.dirInv = false) (hh : x.half = true) (p : ℤ) :
    x.seqIndex p = (p % 8).toNat := by
  simp [Slot.seqIndex, Slot.phase, Slot.seqLen, hd, hh]

/-- Settles O14: the table index of the slot, with the table its HALF selects. -/
theorem coilPatternReadsTheTableAtThePhase : Obligations.CoilPatternReadsTheTableAtThePhase := by
  intro cfg x p
  refine ⟨fun hd hh k hk => ?full, fun hd hh k hk => ?half, fun hd => ?inverted⟩
  case full => simp [Slot.pattern, hh, seqIndex_full hd hh, hk]
  case half => simp [Slot.pattern, hh, seqIndex_half hd hh, hk]
  case inverted => rw [Slot.pattern, Slot.pattern, seqIndex_inverted hd]

/-! ## One motor's nibble (R63, R245, R251) -/

/-- Line BIT_OFFSET + k of a composed word is bit k of the motor's own pattern: no other motor owns that line. -/
theorem Invariant.getLsbD_compose_own {s : State} (h : Invariant s) (P : SlotIx → ℤ) {m : SlotIx}
    (hm : s.registered m = true) {k : Nat} (hk : k < 4) :
    (s.compose P).getLsbD ((s.slot m).bitOffset.toNat + k) = (s.pattern m (P m)).getLsbD k := by
  have hin := (h.legalMotors.fits m hm).inside
  have own : (s.shifted m (P m)).getLsbD ((s.slot m).bitOffset.toNat + k) = (s.pattern m (P m)).getLsbD k := by
    rw [getLsbD_shifted s m _ _ h.cfg]
    simp [hk, show (s.slot m).bitOffset.toNat + k < s.cfg.outWidth by omega]
  rw [← own, Bool.eq_iff_iff, getLsbD_compose]
  constructor
  · rintro ⟨j, hj, hset⟩
    have hjm : j = m := by
      by_contra hne
      rw [getLsbD_shifted s j _ _ h.cfg] at hset
      simp only [Bool.and_eq_true, decide_eq_true_eq] at hset
      exact h.nibbles_apart hne hj hm hset.1.2 ⟨by omega, by omega⟩
    rwa [hjm] at hset
  · exact fun hset => ⟨m, hm, hset⟩

/-- The nibble of a composed word at a registered motor's offset is its own pattern (R251). -/
theorem Invariant.compose_nibble {s : State} (h : Invariant s) (P : SlotIx → ℤ) {m : SlotIx}
    (hm : s.registered m = true) :
    (s.compose P &&& s.nibbleMask m) >>> (s.slot m).bitOffset.toNat = (s.pattern m (P m)).setWidth 32 := by
  have hin := (h.legalMotors.fits m hm).inside
  apply BitVec.eq_of_getLsbD_eq
  intro k hk
  rw [BitVec.getLsbD_ushiftRight, BitVec.getLsbD_and, getLsbD_nibbleMask s m _ h.cfg, BitVec.getLsbD_setWidth]
  by_cases h4 : k < 4
  · rw [h.getLsbD_compose_own P hm h4]
    simp [h4, hk, show (s.slot m).bitOffset.toNat + k < s.cfg.outWidth by omega]
  · simp [h4, BitVec.getLsbD_of_ge (s.pattern m (P m)) k (by omega)]

/-- A patched word keeps OUT in the nibble of every other registered motor (R251). -/
theorem Invariant.patch_nibble {s : State} (h : Invariant s) {m g : SlotIx} (p : ℤ) (hm : s.registered m = true)
    (hg : s.registered g = true) (hgm : g ≠ m) : s.patch g p &&& s.nibbleMask m = s.out &&& s.nibbleMask m := by
  apply BitVec.eq_of_getLsbD_eq
  intro b _
  rw [BitVec.getLsbD_and, BitVec.getLsbD_and, getLsbD_nibbleMask s m b h.cfg, getLsbD_patch s g p b h.cfg]
  by_cases hb : (s.slot m).bitOffset.toNat ≤ b ∧ b < (s.slot m).bitOffset.toNat + 4
  · have hng : ¬((s.slot g).bitOffset.toNat ≤ b ∧ b < (s.slot g).bitOffset.toNat + 4) := fun hbg =>
      h.nibbles_apart hgm hg hm hbg hb
    rw [if_neg hng]
    by_cases hw : b < s.cfg.outWidth <;> simp [hw]
  · simp [hb]

/-- Settles O41: bit by bit, because no other registered motor owns a bit of the nibble (`Invariant.nibbles_apart`). -/
theorem noMotorDisturbsAnothersNibble : Obligations.NoMotorDisturbsAnothersNibble :=
  fun _ P _ h hm => ⟨h.compose_nibble P hm, fun _ p hg hgm => h.patch_nibble p hm hg hgm⟩

/-- Bit b of the emit port (R245). -/
theorem getLsbD_emitDataPort {s : State} (h : s.cfg.WF) (b : Nat) :
    s.emitDataPort.getLsbD b = (decide (b < s.cfg.outWidth) && s.emitData.getLsbD b) := by
  rw [State.emitDataPort, BitVec.getLsbD_and, getLsbD_outMask (outWidth_le h), Bool.and_comm]

/-- Settles O44: `emit_valid` is `emitting()`, the set of R61, and the port cuts EMIT_DATA to OUT_WIDTH bits, which the
nibble of a registered motor lies inside. -/
theorem emitPortDrivesTheWordInFlight : Obligations.EmitPortDrivesTheWordInFlight := by
  intro s hwf
  refine ⟨emitting_iff_emitInFlight s, getLsbD_emitDataPort hwf, fun P m k h hm hk hword => ?_⟩
  have hin := (h.legalMotors.fits m hm).inside
  rw [getLsbD_emitDataPort hwf, hword, h.getLsbD_compose_own P hm hk]
  simp [show (s.slot m).bitOffset.toNat + k < s.cfg.outWidth by omega]

end Sys2Proof.Machine

/-! PROOFS. What an edge does to OUT (spec/43_output.md R248), to the flags of STATUS (spec/10_state.md R37), to the
sleep counter (spec/42_scheduler.md R203), and what a reset edge does (spec/70_reset_and_hazards.md R290). -/

namespace Sys2Proof.Machine

open Sys2Proof.Claims

/-! ## The answer of an emit in flight -/

theorem emitting_congr {s t : State} (hf : t.fsm = s.fsm) (hc : t.cfg = s.cfg)
    (hw : ∀ m, (t.slot m).w = (s.slot m).w) : t.emitting = s.emitting := by
  simp [State.emitting, State.anyWorkerEmitting, State.isSlot, hf, hc, hw]

/-- Outside IDLE the transaction of an edge leaves the emit in flight as it is (R193, R221). -/
theorem hostTransaction_emitting {s s1 : State} (h : hostTransaction s = .next s1) (hf : s.fsm ≠ .idle) :
    s1.emitting = s.emitting :=
  emitting_congr (hostTransaction_fsm h hf) (hostTransaction_frame h).1 (hostTransaction_workers h hf).1

/-- In RUNB an emit is in flight exactly when the engine finds a worker in W_EMIT. -/
theorem emitting_of_runb {s : State} (hf : s.fsm = .runb) : s.emitting = s.emittingWorker.isSome := by
  rw [emittingWorker_isSome, State.emitting, hf]

/-- The engine step of a state's own FSM state writes OUT exactly at the acknowledge of an emit in flight, and then with
EMIT_DATA (R248, R250). -/
theorem engineStep_out_eq (s : State) (p : Pins) : (engineStep s.fsm p s).out =
    if s.emitting = true ∧ p.ack = true ∧ p.err = false then s.emitData else s.out := by
  cases hf : s.fsm with
  | idle | sleep | eval =>
    rcases engineStep_out s.fsm p s with h | ⟨h, -⟩
    · simpa [State.emitting, hf] using h
    · simp [hf] at h
  | emit =>
    simp only [engineStep, emitStep, State.emitting, hf]
    cases p.err <;> cases p.ack <;> simp
  | final =>
    simp only [engineStep, finalStep, State.emitting, hf]
    cases p.err <;> cases p.ack <;> simp
  | patch =>
    simp only [engineStep, patchStep, State.emitting, hf]
    cases p.err <;> cases p.ack <;> simp
  | runb =>
    rw [emitting_of_runb hf, engineStep, runbStep]
    cases s.emittingWorker with
    | some e => cases p.err <;> cases p.ack <;> simp [abortRun]
    | none => dsimp only; (repeat' split) <;> simp_all [startHolding, grantStep]

/-- A failed emit sets IO_ERR, whoever owns it (R249). -/
theorem engineStep_ioErr {s : State} {p : Pins} (he : s.emitting = true) (hp : p.err = true) :
    (engineStep s.fsm p s).ioErr = true := by
  cases hf : s.fsm with
  | idle | sleep | eval => simp [State.emitting, hf] at he
  | emit => simp [engineStep, emitStep, hp]
  | final => simp [engineStep, finalStep, hp]
  | patch => simp [engineStep, patchStep, hp]
  | runb =>
    rw [emitting_of_runb hf, Option.isSome_iff_exists] at he
    obtain ⟨e, he⟩ := he
    simp [engineStep, runbStep, he, hp, abortRun]

/-- OUT after an edge without reset, from the state of the cycle. -/
theorem step_out_eq {s t : State} (h : step s = .next t) (hr : s.pin.rst = false) :
    t.out = if s.emitting = true ∧ s.pin.ack = true ∧ s.pin.err = false then s.emitData else s.out := by
  obtain ⟨s1, h1⟩ := hostTransaction_next s
  obtain rfl : advance s (engineStep s.fsm s.pin s1) = t := Host.Outcome.next.inj ((step_eq hr h1).symm.trans h)
  obtain ⟨-, -, -, -, hout, -⟩ := hostTransaction_frame h1
  by_cases hf : s.fsm = .idle
  · simp [hf, engineStep, State.emitting, hout]
  · obtain ⟨-, hdata, -⟩ := hostTransaction_workers h1 hf
    rw [advance_out, ← hostTransaction_fsm h1 hf, engineStep_out_eq, hostTransaction_emitting h1 hf, hout, hdata]

/-- Settles O45: the two readings of `step_out_eq`. -/
theorem outChangesOnlyOnAcknowledge : Obligations.OutChangesOnlyOnAcknowledge := by
  intro s t h hr
  have hout := step_out_eq h hr
  refine ⟨?_, fun he hack herr => by rw [hout, if_pos ⟨he, hack, herr⟩]⟩
  by_cases ha : s.emitting = true ∧ s.pin.ack = true ∧ s.pin.err = false
  · rw [if_pos ha] at hout
    exact .inr ⟨ha.1, ha.2.1, ha.2.2, hout⟩
  · rw [if_neg ha] at hout
    exact .inl hout

/-! ## STATUS (R37) -/

/-- Settles O53: the write is accepted in its cycle (`step_of_write`), and the engine step that follows it in the same
edge sets DONE or IO_ERR on the state the write left. -/
theorem statusFlagsAreWriteOneToClear : Obligations.StatusFlagsAreWriteOneToClear := by
  intro s a v rest hr hh ha
  have hw : writeEffect a v s = .next (writeStatus v s) := writeEffect_status ha v s
  have hstep := step_of_write hr hh (.inl (by rw [ha]; decide)) hw
  refine ⟨hw, fun hf => ?idle, fun hf hack herr => ⟨_, hstep, ?final⟩, fun he herr => ⟨_, hstep, ?failed⟩⟩
  case idle =>
    have hidle : engineStep s.fsm s.pin (writeStatus v s) = writeStatus v s := by rw [hf]; rfl
    rw [hstep, hidle]
    rfl
  case final => simp [hf, engineStep, finalStep, hack, herr]
  case failed => exact engineStep_ioErr (s := writeStatus v s) he herr

/-! ## SLEEP (R203) -/

/-- One edge of SLEEP: it counts down, or wakes at 1. -/
theorem step_sleep {s : State} (hf : s.fsm = .sleep) (hr : s.pin.rst = false) : ∃ t, step s = .next t ∧
    t.pins = s.pins.tail ∧ (1 < s.sleepCnt.toNat → t.fsm = .sleep ∧ t.sleepCnt.toNat = s.sleepCnt.toNat - 1) ∧
      (s.sleepCnt.toNat ≤ 1 → t.fsm = .eval ∧ t.sleepCnt = 0) := by
  obtain ⟨s1, h1⟩ := hostTransaction_next s
  obtain ⟨-, -, -, -, -, -, hcnt, -⟩ := hostTransaction_frame h1
  have hf1 : s1.fsm = .sleep := (hostTransaction_fsm h1 (by simp [hf])).trans hf
  refine ⟨_, step_eq hr h1, rfl, fun hc => ?_, fun hc => ?_⟩
  · simp only [hf, engineStep, sleepStep, hcnt, hc, if_true, advance_fsm, advance_sleepCnt]
    exact ⟨hf1, toNat_sub_one hc⟩
  · simp [hf, engineStep, sleepStep, hcnt, not_lt.2 hc]

/-- After k of the n edges of a sleep, n - k are left. -/
theorem run_sleep {s : State} (hf : s.fsm = .sleep) (hp : ∀ p ∈ s.pins, p.rst = false) {k : Nat}
    (hk : k < s.sleepCnt.toNat) : ∃ t : State, Sys2Proof.core.run k s = .next t ∧ t.fsm = .sleep ∧
      t.sleepCnt.toNat = s.sleepCnt.toNat - k ∧ ∀ p ∈ t.pins, p.rst = false := by
  induction k with
  | zero => exact ⟨s, rfl, hf, rfl, hp⟩
  | succ k ih =>
    obtain ⟨u, hu, huf, huc, hup⟩ := ih (by omega)
    obtain ⟨t, ht, htp, hsleep, -⟩ := step_sleep huf (pin_rst hup)
    obtain ⟨htf, htc⟩ := hsleep (by omega)
    refine ⟨t, ?_, htf, by omega, fun p hpt => hup p (List.mem_of_mem_tail (htp ▸ hpt))⟩
    rw [run_add hu, run_succ ht]
    rfl

/-- Settles O29: `run_sleep` up to the last edge of the sleep, and the edge that wakes. -/
theorem sleepLastsExactlyItsCount : Obligations.SleepLastsExactlyItsCount := by
  rintro s n hf rfl hn hp
  refine ⟨fun k hk => ?_, ?_⟩
  · obtain ⟨t, ht, htf, htc, -⟩ := run_sleep hf hp hk
    exact ⟨t, ht, htf, htc⟩
  · obtain ⟨u, hu, huf, huc, hup⟩ := run_sleep hf hp (k := s.sleepCnt.toNat - 1) (by omega)
    obtain ⟨t, ht, -, -, hwake⟩ := step_sleep huf (pin_rst hup)
    refine ⟨t, ?_, hwake (by omega)⟩
    rw [← Nat.sub_add_cancel hn, run_add hu, run_succ ht]
    rfl

/-! ## Reset (R60, R290) -/

/-- At a reset edge a request stays with the host (R290). -/
theorem hostAfter_of_reset {s : State} (hr : s.pin.rst = true) (hq : s.request ≠ .idle) : s.hostAfter = s.host := by
  unfold State.hostAfter
  split
  case h_1 h => exact absurd h hq
  case h_2 => simp [hr]

/-- Settles O59: the edge answers `resetEdge`, every field of which is written out in `State.resetWith`. -/
theorem resetEdgeClearsTheBlock : Obligations.ResetEdgeClearsTheBlock := by
  intro s hr
  have hready : (resetEdge s).busReady = true := by
    rw [State.busReady, show (resetEdge s).emitting = false from rfl, Bool.and_false]
    rfl
  exact ⟨resetEdge s, step_of_reset hr, fun m => slot_resetWith _ _ _ _ m, rfl, rfl, rfl, rfl, rfl, rfl, rfl, rfl, rfl,
    rfl, rfl, rfl, rfl, rfl, rfl, rfl, rfl, rfl, rfl, rfl, rfl, hready, rfl, rfl, hostAfter_of_reset hr⟩

end Sys2Proof.Machine

/-! PROOFS. A 64-bit register read as LO and then HI (spec/10_state.md R51, R52, R58; spec/20_memory.md R83;
spec/70_reset_and_hazards.md R297). The LO read keeps the high half in SNAP, nothing but another LO read writes SNAP,
and the host's requests leave its queue in order. -/

namespace Sys2Proof.Machine

open Sys2Proof.Claims

/-! ## SNAP (R58, R83) -/

/-- Only the LO read of an existing slot has an effect (R83). -/
theorem readEffect_of_not_isLowRead {s : State} {a : Addr} (h : ¬ isLowRead s a) : readEffect a s = s := by
  unfold readEffect
  split
  case h_1 m hat =>
    obtain ⟨hm, ha⟩ := (regAt_eq_slot_iff s a m .posLo).1 hat
    exact absurd ⟨m, hm, .inl (ha.trans (by simp only [SlotReg.offset]; omega))⟩ h
  case h_2 m hat =>
    obtain ⟨hm, ha⟩ := (regAt_eq_slot_iff s a m .tgtLo).1 hat
    exact absurd ⟨m, hm, .inr (ha.trans (by simp only [SlotReg.offset]; omega))⟩ h
  case h_3 => rfl

theorem runCommand_snap {w : Word} {s t : State} (h : runCommand w s = .next t) : t.snap = s.snap := by
  rcases runCommand_cases h with ⟨m, rfl⟩ | ⟨i, -, hi⟩
  · rfl
  · exact (exec_registersKept hi).host.1

theorem writeEffect_snap {a : Addr} {v : Word} {s t : State} (h : writeEffect a v s = .next t) : t.snap = s.snap := by
  rcases writeEffect_cases h with rfl | rfl | rfl | rfl | rfl | ⟨-, hc⟩
  case inr.inr.inr.inr.inr => exact runCommand_snap hc
  all_goals rfl

theorem hostTransaction_snap {s s1 : State} (h : hostTransaction s = .next s1)
    (hq : ∀ a, s.request = .read a → ¬ isLowRead s a) : s1.snap = s.snap := by
  cases hreq : s.request with
  | idle =>
    rw [hostTransaction_of_idle hreq] at h
    cases h
    rfl
  | read a =>
    rw [hostTransaction_of_read hreq, readEffect_of_not_isLowRead (hq a hreq)] at h
    cases h
    rfl
  | write a v =>
    by_cases hheld : a &&& 0xFFC#12 ≠ 0x010#12 ∨ s.emitting = false
    · rw [hostTransaction_of_write hreq hheld] at h
      exact writeEffect_snap h
    · obtain ⟨ha, he⟩ : a &&& 0xFFC#12 = 0x010#12 ∧ s.emitting = true := by simpa using hheld
      rw [hostTransaction_of_held hreq ha he] at h
      cases h
      rfl

/-! ## One edge without reset -/

/-- An edge without reset keeps the parameters, uses up its pins and its accepted request, and takes SNAP from the
transaction. -/
theorem step_surroundings {s t : State} (h : step s = .next t) (hr : s.pin.rst = false) :
    t.cfg = s.cfg ∧ t.pins = s.pins.tail ∧ t.host = s.hostAfter ∧
      ∀ s1, hostTransaction s = .next s1 → t.snap = s1.snap := by
  obtain ⟨s1, h1⟩ := hostTransaction_next s
  obtain rfl : advance s (engineStep s.fsm s.pin s1) = t := Host.Outcome.next.inj ((step_eq hr h1).symm.trans h)
  obtain ⟨hcfg, -, -, -, -, -, -, -, hsnap, -⟩ := engineStep_frame s.fsm s.pin s1
  refine ⟨hcfg.trans (hostTransaction_frame h1).1, rfl, rfl, fun s2 h2 => ?_⟩
  obtain rfl : s1 = s2 := Host.Outcome.next.inj (h1.symm.trans h2)
  exact hsnap

theorem step_snap {s t : State} (h : step s = .next t) (hr : s.pin.rst = false)
    (hq : ∀ a, s.request = .read a → ¬ isLowRead s a) : t.snap = s.snap := by
  obtain ⟨s1, h1⟩ := hostTransaction_next s
  obtain ⟨-, -, -, hsnap⟩ := step_surroundings h hr
  exact (hsnap s1 h1).trans (hostTransaction_snap h1 hq)

/-- The request at the head of the queue stays there or leaves it. -/
theorem hostAfter_cases {s : State} {c : BusCycle} {rest : List BusCycle} (h : s.host = c :: rest) :
    s.hostAfter = rest ∨ s.hostAfter = c :: rest := by
  unfold State.hostAfter
  rw [h]
  (repeat' split) <;> simp

/-- Without reset, every request but a held write to CMD leaves the queue at its edge (R81). -/
theorem hostAfter_of_not_cmdWrite {s : State} {c : BusCycle} {rest : List BusCycle} (h : s.host = c :: rest)
    (hr : s.pin.rst = false) (hc : c.isCmdWrite = false) : s.hostAfter = rest := by
  have hq : s.request = c := by simp [State.request, h]
  cases c with
  | idle => rw [hostAfter_of_idle hq, h]; rfl
  | read a | write a v =>
    have hacc : s.accepted = true := accepted_of_not_held (by rw [hq]; rfl) (.inl (by rw [hq]; exact hc))
    simp [State.hostAfter, hq, hacc, hr, h]

theorem step_host {s t : State} (h : step s = .next t) : t.host = s.hostAfter := by
  rcases step_cases h with ⟨-, rfl⟩ | ⟨-, s1, -, rfl⟩ <;> rfl

theorem hostAfter_length_le (s : State) : s.hostAfter.length ≤ s.host.length := by
  have htail : s.host.tail.length ≤ s.host.length := by simp
  unfold State.hostAfter
  split
  · exact htail
  · split
    · exact htail
    · exact Nat.le_refl _

theorem isLowRead_congr {s t : State} (h : t.cfg = s.cfg) (a : Addr) : isLowRead t a ↔ isLowRead s a := by
  rw [isLowRead, isLowRead, h]

/-! ## Several edges -/

/-- The host's queue never grows. -/
theorem run_host_length_le {s t : State} {n : Nat} (h : Sys2Proof.core.run n s = .next t) :
    t.host.length ≤ s.host.length := by
  induction n generalizing s with
  | zero => cases h; rfl
  | succ n ih =>
    obtain ⟨u, hu⟩ := step_next s
    rw [run_succ hu] at h
    calc t.host.length ≤ u.host.length := ih h
      _ = s.hostAfter.length := by rw [step_host hu]
      _ ≤ s.host.length := hostAfter_length_le s

/-- Requests none of which writes CMD leave the queue one at each edge (R81). -/
theorem run_drain {s : State} {mid rest : List BusCycle} (hp : ∀ p ∈ s.pins, p.rst = false)
    (hh : s.host = mid ++ rest) (hc : ∀ c ∈ mid, c.isCmdWrite = false) :
    ∃ t : State, Sys2Proof.core.run mid.length s = .next t ∧ t.host = rest := by
  induction mid generalizing s with
  | nil => exact ⟨s, rfl, hh⟩
  | cons c mid ih =>
    obtain ⟨u, hu⟩ := step_next s
    obtain ⟨-, hpins, hhost, -⟩ := step_surroundings hu (pin_rst hp)
    have hafter := hostAfter_of_not_cmdWrite hh (pin_rst hp) (hc c (by simp))
    obtain ⟨t, ht, hth⟩ := ih (fun p hpu => hp p (List.mem_of_mem_tail (hpins ▸ hpu))) (hhost.trans hafter)
      fun d hd => hc d (List.mem_cons_of_mem c hd)
    exact ⟨t, (run_succ hu mid.length).trans ht, hth⟩

/-- Until the queue reaches the read after them, the accesses of mid but an LO read leave SNAP, whatever the engine does
and however long one of them is held. -/
theorem run_snap {s t : State} {n : Nat} {mid rest : List BusCycle} {b : Addr} (hp : ∀ p ∈ s.pins, p.rst = false)
    (hh : s.host = mid ++ .read b :: rest) (hmid : ∀ a, .read a ∈ mid → ¬ isLowRead s a)
    (h : Sys2Proof.core.run n s = .next t) (ht : t.host = .read b :: rest) : t.snap = s.snap ∧ t.cfg = s.cfg := by
  induction n generalizing s mid with
  | zero => cases h; exact ⟨rfl, rfl⟩
  | succ n ih =>
    have hr := pin_rst hp
    obtain ⟨u, hu⟩ := step_next s
    obtain ⟨hcfg, hpins, hhost, -⟩ := step_surroundings hu hr
    rw [run_succ hu] at h
    have hup : ∀ p ∈ u.pins, p.rst = false := fun p hpu => hp p (List.mem_of_mem_tail (hpins ▸ hpu))
    cases mid with
    | nil =>
      -- The read itself has left the queue, which does not grow again.
      have hgone : u.host = rest := hhost.trans (hostAfter_of_not_cmdWrite hh hr rfl)
      have hlen := run_host_length_le h
      rw [ht, hgone, List.length_cons] at hlen
      omega
    | cons c mid =>
      have hmid' (k : List BusCycle) (hk : k ⊆ c :: mid) (a : Addr) (ha : .read a ∈ k) : ¬ isLowRead u a := by
        rw [isLowRead_congr hcfg]
        exact hmid a (hk ha)
      have hsnap : u.snap = s.snap := step_snap hu hr fun a hq => hmid a (by
        rw [State.request, hh] at hq
        rw [← hq]
        exact List.mem_cons_self ..)
      have hrun : t.snap = u.snap ∧ t.cfg = u.cfg := by
        rcases hostAfter_cases hh with hafter | hafter
        · exact ih hup (hhost.trans hafter) (hmid' mid (List.subset_cons_self ..)) h
        · exact ih hup (hhost.trans hafter) (hmid' (c :: mid) (List.Subset.refl _)) h
      exact ⟨hrun.1.trans hsnap, hrun.2.trans hcfg⟩

/-- From a read to a later one, with no LO read in between, SNAP is what the first read left (R83, R297). -/
theorem run_snap_of_read {s t : State} {n : Nat} {a b : Addr} {mid rest : List BusCycle}
    (hp : ∀ p ∈ s.pins, p.rst = false) (hh : s.host = .read a :: (mid ++ .read b :: rest))
    (hmid : ∀ c, .read c ∈ mid → ¬ isLowRead s c) (h : Sys2Proof.core.run n s = .next t)
    (ht : t.host = .read b :: rest) : t.snap = (readEffect a s).snap ∧ t.cfg = s.cfg := by
  cases n with
  | zero =>
    cases h
    have hlen := congrArg List.length (hh.symm.trans ht)
    simp only [List.length_cons, List.length_append] at hlen
    omega
  | succ n =>
    have hr := pin_rst hp
    obtain ⟨u, hu⟩ := step_next s
    obtain ⟨hcfg, hpins, hhost, hsnap⟩ := step_surroundings hu hr
    rw [run_succ hu] at h
    obtain ⟨htsnap, htcfg⟩ := run_snap (fun p hpu => hp p (List.mem_of_mem_tail (hpins ▸ hpu)))
      (hhost.trans (hostAfter_of_not_cmdWrite hh hr rfl))
      (fun c hc => by rw [isLowRead_congr hcfg]; exact hmid c hc) h ht
    have hread : u.snap = (readEffect a s).snap :=
      hsnap _ (hostTransaction_of_read (by rw [State.request, hh]; rfl))
    exact ⟨htsnap.trans hread, htcfg.trans hcfg⟩

/-! ## The two halves (R51, R52, R86) -/

theorem hiWord_append_loWord (v : BitVec 64) : hiWord v ++ loWord v = v := by
  apply BitVec.eq_of_getLsbD_eq
  intro b hb
  rw [BitVec.getLsbD_append, loWord, hiWord, BitVec.getLsbD_extractLsb', BitVec.getLsbD_extractLsb']
  by_cases h : b < 32
  · simp [h]
  · simp [h, show b - 32 < 32 by omega, show 32 + (b - 32) = b by omega]

/-- A cycle that presents a read of register r of an existing slot carries its read value (R82). -/
theorem busRdata_of_slot {s : State} {a : Addr} {m : SlotIx} {r : SlotReg} {rest : List BusCycle}
    (hh : s.host = .read a :: rest) (hm : m.val < s.cfg.nMotors)
    (ha : (a &&& 0xFFC#12).toNat = 0x100 + r.offset + 0x40 * m.val) : s.busRdata = some (slotRead s m r) := by
  have hat : s.regAt a = .slot m r := (regAt_eq_slot_iff s a m r).2 ⟨hm, ha.trans (by omega)⟩
  rw [busRdata_of_read (a := a) (by rw [State.request, hh]; rfl), readReg_of_slot hat]

/-- A low half, and SNAP with the high half of the same value, are that value. -/
theorem busRdata_halves {s t : State} {v : BitVec 64} (hlo : s.busRdata = some (loWord v))
    (hhi : t.busRdata = some t.snap) (hsnap : t.snap = hiWord v) :
    ∃ lo hi, s.busRdata = some lo ∧ t.busRdata = some hi ∧ hi ++ lo = v :=
  ⟨_, _, hlo, hhi, by rw [hsnap]; exact hiWord_append_loWord v⟩

/-- Settles O58: the LO read leaves the high half in SNAP, and the HI read finds it there (`run_snap_of_read`); requests
that do not write CMD leave the queue at every edge (`run_drain`); and only an LO read has an effect. -/
theorem lowThenHighReadIsTearFree : Obligations.LowThenHighReadIsTearFree := by
  refine ⟨fun s a b m mid rest hm hp hh hmid => ⟨fun hcmd => ?drain, fun n t h ht => ?read⟩,
    fun s a m hm => ⟨fun ha => readEffect_posLo ha hm, fun ha => readEffect_tgtLo ha hm⟩,
    fun s a => readEffect_of_not_isLowRead, fun s t hr hq h => step_snap h hr hq⟩
  case drain =>
    refine run_drain (mid := .read a :: mid) hp hh fun c hc => ?_
    rcases List.mem_cons.1 hc with rfl | hc
    · rfl
    · cases c with
      | idle | read => rfl
      | write c v =>
        rw [← Bool.not_eq_true, isCmdWrite_write]
        exact hcmd c v hc
  case read =>
    obtain ⟨hsnap, hcfg⟩ := run_snap_of_read hp hh hmid h ht
    have hmt : m.val < t.cfg.nMotors := hcfg ▸ hm
    refine ⟨fun ha hb => ?pos, fun ha hb => ?tgt⟩
    case pos =>
      rw [readEffect_posLo ha hm] at hsnap
      exact busRdata_halves (busRdata_of_slot (r := .posLo) hh hm ha) (busRdata_of_slot (r := .posHi) ht hmt hb) hsnap
    case tgt =>
      rw [readEffect_tgtLo ha hm] at hsnap
      exact busRdata_halves (busRdata_of_slot (r := .tgtLo) hh hm ha) (busRdata_of_slot (r := .tgtHi) ht hmt hb) hsnap

end Sys2Proof.Machine

/-! PROOFS. The order of one edge, the transaction first and the engine step second (spec/42_scheduler.md R191), and
which requests wait (spec/20_memory.md R81; spec/42_scheduler.md R221). -/

namespace Sys2Proof.Machine

open Sys2Proof.Claims

/-! ## The two halves of an edge (R191) -/

/-- An edge whose cycle the host leaves idle is the engine step, which does not read the host's queue. -/
theorem step_of_host_idle {s : State} (hr : s.pin.rst = false) (h : List BusCycle) :
    step { s with host := .idle :: h } =
      .next { engineStep s.fsm s.pin s with pins := s.pins.tail, host := h, edge := s.edge + 1 } := by
  obtain ⟨-, -, -, -, -, -, -, -, hsnap, -⟩ := engineStep_frame s.fsm s.pin s
  have hengine : engineStep s.fsm s.pin { s with host := .idle :: h } =
      surround (engineStep s.fsm s.pin s) s.pins (.idle :: h) s.edge s.snap := engineStep_surround ..
  refine (step_of_idle (s := { s with host := .idle :: h }) hr rfl).trans (congrArg _ ?_)
  refine (congrArg (advance _) hengine).trans ?_
  rw [← hsnap]
  rfl

/-- The transaction of an edge is over before its engine step begins: where it keeps the FSM state, the edge is that of
the state it left with a host that presents nothing. -/
theorem step_eq_step_of_host_idle {s s1 : State} (hr : s.pin.rst = false) (h : hostTransaction s = .next s1)
    (hf : s1.fsm = s.fsm) : step s = step { s1 with host := .idle :: s.hostAfter } := by
  obtain ⟨-, hpins, -, hedge, -⟩ := hostTransaction_frame h
  have hpin : s1.pin = s.pin := congrArg (List.headD · Pins.quiet) hpins
  rw [step_eq hr h, step_of_host_idle ((congrArg Pins.rst hpin).trans hr), advance, hf, hpin, hpins, hedge]

/-- Settles O23: the transaction by the kind of the request; then, outside IDLE, the transaction keeps the FSM state
(`hostTransaction_fsm`) and `step_eq_step_of_host_idle` applies. -/
theorem transactionFirstEngineSecond : Obligations.TransactionFirstEngineSecond := by
  refine ⟨fun s => ⟨hostTransaction_of_idle, fun a => hostTransaction_of_read, fun a v => hostTransaction_of_write,
    fun a v => hostTransaction_of_held⟩, fun s s1 hr h => ⟨fun hf => ?idle, fun hf => ?running⟩⟩
  case idle =>
    rw [step_eq hr h, hf]
    rfl
  case running =>
    have hkeep := hostTransaction_fsm h hf
    exact ⟨hkeep, step_eq_step_of_host_idle hr h hkeep⟩

/-! ## Which requests wait (R81, R221) -/

/-- Without reset an accepted request leaves the host's queue. -/
theorem hostAfter_of_accepted {s : State} (hr : s.pin.rst = false) (ha : s.accepted = true) :
    s.hostAfter = s.host.tail := by
  unfold State.hostAfter
  split
  case h_1 => rfl
  case h_2 => simp [ha, hr]

/-- A request that is not ready stays in the host's queue. -/
theorem hostAfter_of_not_busReady {s : State} (hq : s.request ≠ .idle) (h : s.busReady = false) :
    s.hostAfter = s.host := by
  unfold State.hostAfter
  split
  case h_1 hidle => exact absurd hidle hq
  case h_2 => simp [State.accepted, h]

theorem busReady_of_accepted {s : State} (h : s.accepted = true) : s.busReady = true :=
  (Bool.and_eq_true_iff.1 h).2

theorem valid_of_ne_idle {c : BusCycle} (h : c ≠ .idle) : c.valid = true := by
  cases c with
  | idle => exact absurd rfl h
  | read | write => rfl

theorem isCmdWrite_eq_false {c : BusCycle} (h : ∀ a v, c = .write a v → a &&& 0xFFC#12 ≠ 0x010#12) :
    c.isCmdWrite = false := by
  cases c with
  | idle | read => rfl
  | write a v =>
    rw [← Bool.not_eq_true, isCmdWrite_write]
    exact h a v rfl

/-- Settles O25: a request that is not a write to CMD during an emit is accepted (`accepted_of_not_held`) and leaves the
queue; a held one has no transaction, so by `step_eq_step_of_host_idle` the edge is that of an idle host. -/
theorem onlyCommandWritesWaitAndOnlyForAnEmit : Obligations.OnlyCommandWritesWaitAndOnlyForAnEmit := by
  intro s c rest hr hh
  have hq : s.request = c := by rw [State.request, hh]; rfl
  obtain ⟨t, ht⟩ := step_next s
  refine ⟨fun hc hfree => ?accepted, ?held⟩
  case accepted =>
    have hacc : s.accepted = true := by
      subst hq
      exact accepted_of_not_held (valid_of_ne_idle hc) (hfree.imp_left isCmdWrite_eq_false)
    refine ⟨busReady_of_accepted hacc, t, ht, ?_⟩
    rw [step_host ht, hostAfter_of_accepted hr hacc, hh]
    rfl
  case held =>
    rintro a v rfl ha he
    have hready : s.busReady = false := by
      rw [State.busReady, hq, (isCmdWrite_write a v).2 ha, he]
      rfl
    have hstay : s.hostAfter = s.host := hostAfter_of_not_busReady (by rw [hq]; exact BusCycle.noConfusion) hready
    refine ⟨hready, ?_, t, ht, (step_host ht).trans hstay⟩
    rw [step_eq_step_of_host_idle hr (hostTransaction_of_held hq ha he) rfl, hstay]

end Sys2Proof.Machine

/-! PROOFS. The decoder by the field table (spec/30_encoding.md R111, R112), that it reads back every encoded command
(R110, R118), and what follows from it for the words a host may write (R113, R114; spec/42_scheduler.md R194). -/

namespace Sys2Proof.Machine

open Sys2Proof.Claims

/-! ## The fields of a word as its bits (R111) -/

theorem opField_eq_bits (w : Word) : (opField w).toNat = bits w 3 0 := by
  simp [opField_toNat, bits]

theorem bitOffsetField_eq_bits (w : Word) : bitOffsetField w = bits w 23 16 := bitOffsetField_eq w

theorem getLsbD_eq_bits (w : Word) (k : Nat) : w.getLsbD k = decide (bits w k k = 1) := by
  simp [BitVec.getLsbD, Nat.testBit_eq_decide_div_mod_eq, bits]

theorem dirInvField_eq_bits (w : Word) : dirInvField w = decide (bits w 24 24 = 1) := getLsbD_eq_bits w 24

theorem halfField_eq_bits (w : Word) : halfField w = decide (bits w 25 25 = 1) := getLsbD_eq_bits w 25

theorem bits_eq_extractLsb' (w : Word) (hi lo : Nat) : bits w hi lo = (w.extractLsb' lo (hi + 1 - lo)).toNat := by
  rw [BitVec.extractLsb'_toNat, Nat.shiftRight_eq_div_pow, bits]

/-- Words that agree under a mask agree in every field that the mask covers. -/
theorem bits_eq_of_and_eq {u v w : Word} {hi lo : Nat} (h : v &&& u = w &&& u)
    (hu : u.extractLsb' lo (hi + 1 - lo) = BitVec.allOnes _) : bits v hi lo = bits w hi lo := by
  have field (x : Word) : (x &&& u).extractLsb' lo (hi + 1 - lo) = x.extractLsb' lo (hi + 1 - lo) := by
    rw [BitVec.extractLsb'_and, hu, BitVec.and_allOnes]
  rw [bits_eq_extractLsb', bits_eq_extractLsb', ← field v, h, field w]

/-! ## The opcode map (R112): OP alone selects the command -/

section OpcodeMap

variable {w : Word}

theorem decode_nop (h : bits w 3 0 = 0) : decode w = .ok .nop := by
  simp [decode, opField_eq_bits, h]

theorem decode_configure (h : bits w 3 0 = 1) : decode w =
    .ok (.configure (motorOf w) (bits w 23 16) (decide (bits w 24 24 = 1)) (decide (bits w 25 25 = 1))) := by
  simp [decode, opField_eq_bits, h, motorField_eq_motorOf, bitOffsetField_eq_bits,
    dirInvField_eq_bits, halfField_eq_bits]

theorem decode_release (h : bits w 3 0 = 2) : decode w = .ok (.release (motorOf w)) := by
  simp [decode, opField_eq_bits, h, motorField_eq_motorOf]

theorem decode_zero (h : bits w 3 0 = 3) : decode w = .ok (.zero (motorOf w)) := by
  simp [decode, opField_eq_bits, h, motorField_eq_motorOf]

theorem decode_setTarget (h : bits w 3 0 = 4) : decode w = .ok (.setTarget (motorOf w)) := by
  simp [decode, opField_eq_bits, h, motorField_eq_motorOf]

theorem decode_run (h : bits w 3 0 = 5) : decode w = .ok (.run (motorOf w)) := by
  simp [decode, opField_eq_bits, h, motorField_eq_motorOf]

theorem decode_wrnib (h : bits w 3 0 = 6) : decode w = .ok (.wrnib (motorOf w)) := by
  simp [decode, opField_eq_bits, h, motorField_eq_motorOf]

end OpcodeMap

/-- Settles O2: the opcode map row by row, and the reserved opcodes by `decode_of_reserved`. -/
theorem decodingIsTotalAndReadsTheFieldTable : Obligations.DecodingIsTotalAndReadsTheFieldTable := fun w =>
  ⟨decode_nop, decode_configure, decode_release, decode_zero, decode_setTarget, decode_run, decode_wrnib, fun h => by
    rw [decode_of_reserved h, motorField_eq_motorOf, ← opField_eq_bits, BitVec.ofNat_toNat, BitVec.setWidth_eq]⟩

/-! ## The fields of an encoded word (R111) -/

section EncodedFields

variable {op off : Nat} (m : SlotIx) (dinv half : Bool) (ho : op < 16) (h : off < 256)
include ho h

theorem bits_op_cmdWord : bits (cmdWord op m off dinv half) 3 0 = op := by
  rw [← opField_eq_bits, opField_cmdWord m dinv half ho h]

theorem motorOf_cmdWord : motorOf (cmdWord op m off dinv half) = m := by
  apply Fin.ext
  have := m.isLt
  rw [motorOf, Fin.val_ofNat, bits, toNat_cmdWord m dinv half ho h]
  omega

theorem bits_bitOffset_cmdWord : bits (cmdWord op m off dinv half) 23 16 = off := by
  have := m.isLt
  rw [bits, toNat_cmdWord m dinv half ho h]
  omega

theorem bits_dirInv_cmdWord : bits (cmdWord op m off dinv half) 24 24 = dinv.toNat := by
  have := m.isLt
  have := Bool.toNat_le dinv
  rw [bits, toNat_cmdWord m dinv half ho h]
  omega

theorem bits_half_cmdWord : bits (cmdWord op m off dinv half) 25 25 = half.toNat := by
  have := m.isLt
  have := Bool.toNat_le dinv
  have := Bool.toNat_le half
  rw [bits, toNat_cmdWord m dinv half ho h]
  omega

end EncodedFields

/-- Settles O1: for each command the opcode map selects its row, and every field of the encoded word is the operand it
was written from. -/
theorem decodeReadsBackEveryEncodedCommand : Obligations.DecodeReadsBackEveryEncodedCommand := by
  intro i hi
  have motor {op : Nat} (m : SlotIx) (ho : op < 16) : motorOf (cmdWord op m 0 false false) = m :=
    motorOf_cmdWord m false false ho (by decide)
  have opcode {op : Nat} (m : SlotIx) (ho : op < 16) : bits (cmdWord op m 0 false false) 3 0 = op :=
    bits_op_cmdWord m false false ho (by decide)
  cases i with
  | nop => exact decode_nop (opcode 0 (by decide))
  | configure m off dinv half =>
    have hoff : off < 256 := of_decide_eq_true hi
    have ho : 1 < 16 := by decide
    rw [encode, decode_configure (bits_op_cmdWord m dinv half ho hoff), motorOf_cmdWord m dinv half ho hoff,
      bits_bitOffset_cmdWord m dinv half ho hoff, bits_dirInv_cmdWord m dinv half ho hoff,
      bits_half_cmdWord m dinv half ho hoff]
    simp
  | release m => rw [encode, decode_release (opcode m (by decide)), motor m (by decide)]
  | zero m => rw [encode, decode_zero (opcode m (by decide)), motor m (by decide)]
  | setTarget m => rw [encode, decode_setTarget (opcode m (by decide)), motor m (by decide)]
  | run m => rw [encode, decode_run (opcode m (by decide)), motor m (by decide)]
  | wrnib m => rw [encode, decode_wrnib (opcode m (by decide)), motor m (by decide)]

/-! ## The bits a command ignores (R114) -/

/-- Outside a run RUN never records its MOTOR field, so its effect does not depend on it (R195, R262). -/
theorem execRun_eq_of_not_busy {s : State} (h : s.busy = false) (m k : SlotIx) : execRun m s = execRun k s := by
  simp [execRun, h]

/-- Every command uses its OP field. -/
theorem extractLsb'_usedBits_op (op : Nat) : (usedBits op).extractLsb' 0 4 = BitVec.allOnes 4 := by
  unfold usedBits
  (repeat' split) <;> decide

/-- Every command but NOP and RUN uses its MOTOR field. -/
theorem extractLsb'_usedBits_motor {op : Nat} (h0 : op ≠ 0) (h5 : op ≠ 5) :
    (usedBits op).extractLsb' 8 4 = BitVec.allOnes 4 := by
  unfold usedBits
  rw [if_neg (by omega)]
  split <;> decide

/-- Settles O3: the two words have one OP, so one row of the opcode map, and agree in the fields that row reads; RUN
alone reads a field it does not use. -/
theorem ignoredBitsNeverChangeACommand : Obligations.IgnoredBitsNeverChangeACommand := by
  intro v w s hlt hidle hand
  have hop : bits v 3 0 = bits w 3 0 := bits_eq_of_and_eq hand (extractLsb'_usedBits_op _)
  have same {i : Instr} (hv : decode v = .ok i) (hw : decode w = .ok i) : runCommand v s = runCommand w s := by
    rw [runCommand_of_ok hv, runCommand_of_ok hw]
  generalize hv : bits v 3 0 = op at hlt hidle hand hop
  have motor (h0 : op ≠ 0) (h5 : op ≠ 5) : motorOf w = motorOf v :=
    congrArg (Fin.ofNat 16) (bits_eq_of_and_eq hand (extractLsb'_usedBits_motor h0 h5)).symm
  interval_cases op
  · exact same (decode_nop hv) (decode_nop hop.symm)
  · refine same (decode_configure hv) ?_
    rw [decode_configure hop.symm, motor (by decide) (by decide), bits_eq_of_and_eq hand (lo := 16) (by decide),
      bits_eq_of_and_eq hand (lo := 24) (by decide), bits_eq_of_and_eq hand (lo := 25) (by decide)]
  · exact same (decode_release hv) (motor (by decide) (by decide) ▸ decode_release hop.symm)
  · exact same (decode_zero hv) (motor (by decide) (by decide) ▸ decode_zero hop.symm)
  · exact same (decode_setTarget hv) (motor (by decide) (by decide) ▸ decode_setTarget hop.symm)
  · rw [runCommand_of_ok (decode_run hv), runCommand_of_ok (decode_run hop.symm)]
    exact execRun_eq_of_not_busy (hidle rfl) ..
  · exact same (decode_wrnib hv) (motor (by decide) (by decide) ▸ decode_wrnib hop.symm)

/-! ## NOP and the reserved opcodes (R113, R194) -/

/-- Settles O5: such a word decodes to the rejection that carries its MOTOR field. -/
theorem reservedOpcodesRecordBadOpcode : Obligations.ReservedOpcodesRecordBadOpcode :=
  fun _ s h => runCommand_of_reserved h s

/-- Settles O21: a word with OP = 0 is NOP, whose meaning answers the state itself. -/
theorem nopChangesNothing : Obligations.NopChangesNothing :=
  fun s _ => ⟨rfl, fun h => runCommand_of_ok (decode_nop h) s⟩

end Sys2Proof.Machine

/-! PROOFS. The value of a binary64 angle operand (spec/30_encoding.md R116, R117) and the worked encodings (R121,
R122). -/

namespace Sys2Proof.Machine

/-! ## The fields of an operand (R117) -/

theorem f64Exponent_eq (a : BitVec 64) : f64Exponent a = a.toNat / 2 ^ 52 % 2 ^ 11 := by
  rw [f64Exponent, BitVec.extractLsb'_toNat, Nat.shiftRight_eq_div_pow]

theorem f64Fraction_eq (a : BitVec 64) : f64Fraction a = a.toNat % 2 ^ 52 := by
  rw [f64Fraction, BitVec.extractLsb'_toNat, Nat.shiftRight_zero]

/-- The sign is the top bit, so it is the quotient by 2^63. -/
theorem f64Sign_eq (a : BitVec 64) : f64Sign a = decide (a.toNat / 2 ^ 63 = 1) := by
  rw [f64Sign, BitVec.getLsbD, Nat.testBit_eq_decide_div_mod_eq, Nat.mod_eq_of_lt (by omega)]

theorem f64IsFinite_iff (a : BitVec 64) : f64IsFinite a = true ↔ a.toNat / 2 ^ 52 % 2 ^ 11 ≠ 0x7FF := by
  rw [f64IsFinite, bne_iff_ne, f64Exponent_eq]

/-! ## The value (R117) -/

theorem f64Value_eq_sign_mul (a : BitVec 64) : f64Value a = (-1) ^ (a.toNat / 2 ^ 63) * f64Magnitude a := by
  have h : a.toNat / 2 ^ 63 = 0 ∨ a.toNat / 2 ^ 63 = 1 := by omega
  rw [f64Value, f64Sign_eq]
  generalize a.toNat / 2 ^ 63 = q at h ⊢
  obtain rfl | rfl := h <;> simp

/-- With exponent 0 the operand is zero or a subnormal number. -/
theorem f64Value_subnormal {a : BitVec 64} (h : a.toNat / 2 ^ 52 % 2 ^ 11 = 0) :
    f64Value a = (-1) ^ (a.toNat / 2 ^ 63) * ((a.toNat % 2 ^ 52 : Nat) : ℚ) * (2 : ℚ) ^ (-1074 : ℤ) := by
  have hmag : f64Magnitude a = f64Fraction a * (2 : ℚ) ^ (-1074 : ℤ) := by
    rw [f64Magnitude, if_pos ((f64Exponent_eq a).trans h), Nat.cast_pow, Nat.cast_ofNat, zpow_neg, zpow_ofNat,
      div_eq_mul_inv]
  rw [f64Value_eq_sign_mul, hmag, f64Fraction_eq, mul_assoc]

/-- The power of two of a normal number stands on the side of the fraction bar where its exponent is not negative. -/
theorem f64Magnitude_normal {a : BitVec 64} (h : f64Exponent a ≠ 0) :
    f64Magnitude a = ((2 ^ 52 + f64Fraction a : Nat) : ℚ) * (2 : ℚ) ^ ((f64Exponent a : ℤ) - 1075) := by
  rw [f64Magnitude, if_neg h]
  split
  case isTrue hge =>
    have hexp : (f64Exponent a : ℤ) - 1075 = (f64Exponent a - 1075 : Nat) := by omega
    rw [hexp, zpow_natCast, Nat.cast_mul, Nat.cast_pow, Nat.cast_ofNat]
  case isFalse hlt =>
    have hexp : (f64Exponent a : ℤ) - 1075 = -(1075 - f64Exponent a : Nat) := by omega
    rw [hexp, zpow_neg, zpow_natCast, Nat.cast_pow, Nat.cast_ofNat, div_eq_mul_inv]

theorem f64Value_normal {a : BitVec 64} (h : a.toNat / 2 ^ 52 % 2 ^ 11 ≠ 0) :
    f64Value a = (-1) ^ (a.toNat / 2 ^ 63) * ((2 ^ 52 + a.toNat % 2 ^ 52 : Nat) : ℚ) *
      (2 : ℚ) ^ (((a.toNat / 2 ^ 52 % 2 ^ 11 : Nat) : ℤ) - 1075) := by
  rw [← f64Exponent_eq] at h ⊢
  rw [f64Value_eq_sign_mul, f64Magnitude_normal h, f64Fraction_eq, mul_assoc]

/-- Settles O6: the exponent field decides which operands are finite, and which of the two forms the value has. -/
theorem angleOperandHasItsBinary64Value : Obligations.AngleOperandHasItsBinary64Value :=
  fun a => ⟨f64IsFinite_iff a, f64Value_subnormal, fun h _ => f64Value_normal h⟩

/-! ## The worked encodings (R121, R122) -/

/-- Settles O4: the words by running the decoder, the values by the two forms of R117. -/
theorem workedEncodingsDecode : Obligations.WorkedEncodingsDecode := by
  refine ⟨by decide, by decide, by decide, by decide, by decide, by decide, by decide, by decide, by decide,
    by decide, ?ninety, ?minusNinety, ?zero, ?straight, ?large, ?ten, ?fraction, by decide, by decide⟩
  case zero =>
    rw [f64Value_subnormal (by decide)]
    simp
  all_goals
    rw [f64Value_normal (by decide)]
    norm_num

end Sys2Proof.Machine

/-! PROOFS. CONFIGURE and SET_TARGET, the motor commands with operands in ARG, when all their checks pass
(spec/41_motor.md R162, R165, R166). -/

namespace Sys2Proof.Machine

/-- A next state that rewrites slot m leaves every other slot and every other field. -/
theorem setSlot_frame (s : State) (m : SlotIx) (x : Slot) :
    (∀ j, j ≠ m → (s.setSlot m x).slot j = s.slot j) ∧ (s.setSlot m x).withSlots s.slots = s :=
  ⟨fun _ => slot_setSlot_ne s x, setSlot_withSlots ..⟩

/-! ## CONFIGURE (R162, R165) -/

theorem offsetTaken_eq_false_iff (s : State) (m : SlotIx) (off : Nat) : s.offsetTaken m off = false ↔
    ∀ j : SlotIx, j ≠ m → s.registered j = true → (s.slot j).bitOffset.toNat ≠ off := by
  simp [State.offsetTaken, mem_allSlots]

theorem checkConfigure_eq_none {s : State} {m : SlotIx} {off : Nat} {spr delay : Word} (hm : m.val < s.cfg.nMotors)
    (hb : s.busy = false) (hspr : spr ≠ 0) (hdelay : delay ≠ 0) (hoff : off % 4 = 0)
    (hfit : off + 4 ≤ s.cfg.outWidth) (hfree : s.offsetTaken m off = false) : s.checkConfigure m off spr delay = none := by
  have hplace : ¬ (off % 4 ≠ 0 ∨ s.cfg.outWidth < off + 4) := by omega
  rw [State.checkConfigure, (isSlot_iff s m).2 hm, hb, hfree, if_neg hspr, if_neg hdelay, if_neg hplace]
  rfl

theorem execConfigure_of_checkConfigure {s : State} {m : SlotIx} {off : Nat}
    (h : s.checkConfigure m off s.argLo s.argHi = none) (dinv half : Bool) :
    execConfigure m off dinv half s = .next (s.setSlot m { s.slot m with
      bitOffset := BitVec.ofNat 8 off, dirInv := dinv, half := half, spr := s.argLo, delay := s.argHi, pos := 0,
      tgt := 0, reg := true }) := by
  rw [execConfigure, State.sprOperand, State.delayOperand, h]

/-- Settles O15: every check of R165 passes, so the command writes slot m. -/
theorem configureConstructsTheMotor : Obligations.ConfigureConstructsTheMotor := by
  intro s m off dinv half hm hb hspr hdelay hoff hfit hfree
  have hcheck : s.checkConfigure m off s.argLo s.argHi = none :=
    checkConfigure_eq_none hm hb hspr hdelay hoff hfit ((offsetTaken_eq_false_iff s m off).2 hfree)
  exact ⟨_, execConfigure_of_checkConfigure hcheck dinv half, slot_setSlot_self .., setSlot_frame ..⟩

/-! ## SET_TARGET (R166) -/

theorem outOfPosRange_eq_false {n : ℤ} (hlo : -2 ^ 63 ≤ n) (hhi : n ≤ 2 ^ 63 - 1) : outOfPosRange n = false :=
  decide_eq_false (by omega)

theorem execSetTarget_of_posRange {s : State} {m : SlotIx} (hm : m.val < s.cfg.nMotors)
    (hreg : (s.slot m).reg = true) (hfin : f64IsFinite s.arg = true) (hrange : outOfPosRange (s.newTarget m) = false) :
    execSetTarget m s = .next (s.setSlot m { s.slot m with tgt := BitVec.ofInt 64 (s.newTarget m) }) := by
  rw [execSetTarget, (isSlot_iff s m).2 hm, hreg, hfin, hrange]
  rfl

/-- Settles O18: every check passes, and the new target fits, so the stored TGT reads back as it. -/
theorem setTargetTakesTheShortestPath : Obligations.SetTargetTakesTheShortestPath := by
  intro s m hm hreg _ hfin spr d nt hhi hlo
  have hnt : s.newTarget m = nt := rfl
  refine ⟨_, execSetTarget_of_posRange hm hreg hfin (outOfPosRange_eq_false hlo hhi), ?target, ?slot,
    setSlot_frame ..⟩
  case target =>
    rw [State.tgtOf, slot_setSlot_self, hnt]
    exact BitVec.toInt_ofInt_eq_self (by decide) hlo (Int.lt_of_le_sub_one hhi)
  case slot => rw [slot_setSlot_self]

end Sys2Proof.Machine

/-! PROOFS. The shortest-path angle comparator (spec/40_anglemath.md R140 to R150) and the repeated target it answers
(spec/41_motor.md R173). -/

namespace Sys2Proof.Machine

open Sys2Proof.Claims

/-! ## The balanced modulo: R142's formula with R143's tie, for every modulus -/

/-- The true modulo moved down by half the modulus, with the tie sent to the positive half. -/
def balancedMod (y m : ℚ) : ℚ :=
  if ratMod (y + m / 2) m - m / 2 = -m / 2 then m / 2 else ratMod (y + m / 2) m - m / 2

theorem shortestDelta_eq_balancedMod (a b : ℚ) : shortestDelta a b = balancedMod (b - a) 360 := by
  norm_num [shortestDelta, balancedMod]

theorem balancedMod_range (y : ℚ) {m : ℚ} (hm : 0 < m) : -m / 2 < balancedMod y m ∧ balancedMod y m ≤ m / 2 := by
  obtain ⟨hlo, hhi⟩ := ratMod_range (y + m / 2) hm
  unfold balancedMod
  split
  case isTrue => constructor <;> linarith
  case isFalse hne => exact ⟨lt_of_le_of_ne (by linarith) (Ne.symm hne), by linarith⟩

theorem balancedMod_spec (y m : ℚ) : ∃ k : ℤ, y = balancedMod y m + m * k := by
  have hmod := ratMod_spec (y + m / 2) m
  unfold balancedMod
  split
  case isTrue htie =>
    refine ⟨⌊(y + m / 2) / m⌋ - 1, ?_⟩
    push_cast
    linarith
  case isFalse => exact ⟨⌊(y + m / 2) / m⌋, by linarith⟩

/-- The balanced modulo is the one value in (-m/2, m/2] that differs from y by a multiple of m. -/
theorem balancedMod_unique {y m r : ℚ} (hm : 0 < m) (hlo : -m / 2 < r) (hhi : r ≤ m / 2) {k : ℤ}
    (h : y = r + m * k) : balancedMod y m = r := by
  obtain hlt | rfl := lt_or_eq_of_le hhi
  · have hmod : ratMod (y + m / 2) m = r + m / 2 :=
      ratMod_unique hm (by linarith) (by linarith) k (by linarith)
    rw [balancedMod, hmod, add_sub_cancel_right, if_neg hlo.ne']
  · have hmod : ratMod (y + m / 2) m = 0 := by
      refine ratMod_unique hm le_rfl hm (k + 1) ?_
      push_cast
      linarith
    rw [balancedMod, hmod, if_pos (by ring)]

theorem balancedMod_congr {x y m : ℚ} (hm : 0 < m) {k : ℤ} (h : x = y + m * k) :
    balancedMod x m = balancedMod y m := by
  obtain ⟨j, hj⟩ := balancedMod_spec y m
  obtain ⟨hlo, hhi⟩ := balancedMod_range y hm
  refine balancedMod_unique hm hlo hhi (k := j + k) ?_
  push_cast
  linarith

/-- Scaling commutes with the balanced modulo (R146). -/
theorem balancedMod_mul {y m c : ℚ} (hm : 0 < m) (hc : 0 < c) : balancedMod (y * c) (m * c) = balancedMod y m * c := by
  obtain ⟨k, hk⟩ := balancedMod_spec y m
  obtain ⟨hlo, hhi⟩ := balancedMod_range y hm
  have hlo' := mul_lt_mul_of_pos_right hlo hc
  have hhi' := mul_le_mul_of_nonneg_right hhi hc.le
  have hscaled : y * c = balancedMod y m * c + m * c * k := by
    conv_lhs => rw [hk]
    ring
  exact balancedMod_unique (mul_pos hm hc) (by linarith) (by linarith) hscaled

/-! ## normalize and shortest_delta (R141 to R143) -/

theorem normalizeAngle_spec (x : ℚ) : ∃ k : ℤ, x = normalizeAngle x + 360 * k := ⟨_, ratMod_spec x 360⟩

theorem normalizeAngle_unique {x y : ℚ} (k : ℤ) (h0 : 0 ≤ y) (h1 : y < 360) (h : x = y + 360 * k) :
    normalizeAngle x = y :=
  ratMod_unique (by norm_num) h0 h1 k h

/-- Settles O7: the range of the true modulo, and each corner case by its quotient. -/
theorem normalizeIsTheTrueModulo : Obligations.NormalizeIsTheTrueModulo := by
  refine ⟨fun x => ⟨?lo, ?hi, rfl⟩, normalizeAngle_unique 1 ?_ ?_ ?_, normalizeAngle_unique (-1) ?_ ?_ ?_,
    normalizeAngle_unique 2 ?_ ?_ ?_, normalizeAngle_unique (-1) ?_ ?_ ?_⟩
  case lo => exact (ratMod_range x (by norm_num)).1
  case hi => exact (ratMod_range x (by norm_num)).2
  all_goals norm_num

/-- Settles O8: `shortest_delta` is the balanced modulo by 360, so it differs from `to - from` by whole revolutions; the
odd multiples of 180 leave 180. -/
theorem shortestDeltaReachesTheTargetTheShortWay : Obligations.ShortestDeltaReachesTheTargetTheShortWay := by
  intro a b
  rw [shortestDelta_eq_balancedMod]
  obtain ⟨hlo, hhi⟩ := balancedMod_range (b - a) (m := 360) (by norm_num)
  obtain ⟨k, hk⟩ := balancedMod_spec (b - a) 360
  refine ⟨by linarith, by linarith, ?reaches, ?formula, ?tie⟩
  case reaches =>
    refine ratMod_congr (by norm_num) (-k) ?_
    push_cast
    linarith
  case formula =>
    intro hraw
    rw [← shortestDelta_eq_balancedMod]
    exact if_neg hraw
  case tie =>
    rintro ⟨n, hn⟩
    exact balancedMod_unique (by norm_num) (by norm_num) (by norm_num) (k := n) (by linarith)

/-! ## degrees_to_steps (R144, R150) -/

/-- Settles O9: what rounding does to the exact quotient, which is the integer spr for 360 degrees. -/
theorem degreesToStepsRoundsHalfAwayFromZero : Obligations.DegreesToStepsRoundsHalfAwayFromZero := by
  intro deg spr _
  obtain ⟨hnear, haway⟩ := roundHaz_spec (deg * spr / 360)
  have hturn : (360 : ℚ) * spr / 360 = ((spr : ℤ) : ℚ) := by
    push_cast
    ring
  exact ⟨hnear, haway, by rw [degreesToSteps, hturn, roundHaz_intCast]⟩

/-! ## The comparator in step units (R146, R147) -/

theorem cmpDelta_emod (p : ℤ) (spr : Nat) (t : ℚ) : cmpDelta (p % (spr : ℤ)) spr t = cmpDelta p spr t := by
  rw [cmpDelta, cmpDelta, Int.emod_emod_of_dvd p dvd_rfl]

/-- The comparator rounds the balanced modulo of T - p: neither `p mod spr` nor `normalize` is seen in it, because each
changes the distance by whole revolutions. -/
theorem cmpDelta_eq_roundHaz (p : ℤ) {spr : Nat} (t : ℚ) (hspr : 0 < spr) :
    cmpDelta p spr t = roundHaz (balancedMod (stepTarget t spr - p) spr) := by
  have hs : (0 : ℚ) < spr := Nat.cast_pos.2 hspr
  have hc : (0 : ℚ) < spr / 360 := by positivity
  obtain ⟨k, hk⟩ := normalizeAngle_spec t
  have hp : (p : ℚ) = (p % (spr : ℤ) : ℤ) + spr * (p / (spr : ℤ) : ℤ) := by
    exact_mod_cast (Int.emod_add_mul_ediv p spr).symm
  have hdist : (normalizeAngle t - stepsToDegrees (p % (spr : ℤ)) spr) * (spr / 360) =
      stepTarget t spr - p + spr * (p / (spr : ℤ) - k : ℤ) := by
    rw [stepsToDegrees, stepTarget, hp]
    conv_rhs => rw [hk]
    push_cast
    field_simp
    ring
  rw [cmpDelta, degreesToSteps, shortestDelta_eq_balancedMod, mul_div_assoc, ← balancedMod_mul (by norm_num) hc,
    mul_div_cancel₀ (spr : ℚ) (by norm_num : (360 : ℚ) ≠ 0), balancedMod_congr hs hdist]

/-- Settles O10: the x of R146, with its tie, is the balanced modulo at `p mod spr`. -/
theorem comparatorEqualsItsStepDomainForm : Obligations.ComparatorEqualsItsStepDomainForm := by
  intro p spr t hspr c x
  rw [← cmpDelta_emod]
  exact cmpDelta_eq_roundHaz (p % (spr : ℤ)) t hspr

/-- The comparator rounds the exact shortest distance x from p to the target, in steps. -/
theorem exists_stepDistance (p : ℤ) {spr : Nat} (t : ℚ) (hspr : 0 < spr) : ∃ (x : ℚ) (k : ℤ),
    -(spr : ℚ) / 2 < x ∧ x ≤ spr / 2 ∧ stepTarget t spr - p = x + spr * k ∧ cmpDelta p spr t = roundHaz x := by
  obtain ⟨hlo, hhi⟩ := balancedMod_range (stepTarget t spr - p) (m := spr) (Nat.cast_pos.2 hspr)
  obtain ⟨k, hk⟩ := balancedMod_spec (stepTarget t spr - p) spr
  exact ⟨_, k, hlo, hhi, hk, cmpDelta_eq_roundHaz p t hspr⟩

/-- That distance is the only one in its range. -/
theorem cmpDelta_of_stepDistance {p : ℤ} {spr : Nat} {t x : ℚ} {k : ℤ} (hspr : 0 < spr) (hlo : -(spr : ℚ) / 2 < x)
    (hhi : x ≤ spr / 2) (h : stepTarget t spr - p = x + spr * k) : cmpDelta p spr t = roundHaz x := by
  rw [cmpDelta_eq_roundHaz p t hspr, balancedMod_unique (Nat.cast_pos.2 hspr) hlo hhi h]

/-- Settles O11: rounding moves the shortest distance, in (-spr/2, spr/2], by at most a half. -/
theorem comparatorDeltaIsAtMostHalfARevolution : Obligations.ComparatorDeltaIsAtMostHalfARevolution := by
  intro p spr t hspr
  obtain ⟨x, -, hlo, hhi, -, hd⟩ := exists_stepDistance p t hspr
  obtain ⟨hbelow, habove⟩ := abs_le.1 (roundHaz_spec x).1
  rw [hd]
  have hmin : -((spr : ℤ) + 1) < 2 * roundHaz x := by
    have : -((spr : ℚ) + 1) < 2 * roundHaz x := by linarith
    exact_mod_cast this
  have hmax : 2 * roundHaz x ≤ (spr : ℤ) + 1 := by
    have : 2 * (roundHaz x : ℚ) ≤ spr + 1 := by linarith
    exact_mod_cast this
  constructor <;> omega

/-! ## Half-step ties and the repeated target (R148, R173) -/

theorem roundHaz_half : roundHaz (1 / 2) = 1 := by norm_num [roundHaz]

theorem roundHaz_neg_half : roundHaz (-1 / 2) = -1 := by norm_num [roundHaz]

/-- Exactly the halves between two integers are rounded by a half. -/
theorem abs_sub_roundHaz_eq_half_iff (x : ℚ) : |x - roundHaz x| = 1 / 2 ↔ ∃ n : ℤ, x = n + 1 / 2 := by
  constructor
  · intro h
    obtain h | h := (abs_eq (by norm_num)).1 h
    · exact ⟨roundHaz x, by linarith⟩
    · refine ⟨roundHaz x - 1, ?_⟩
      push_cast
      linarith
  · rintro ⟨n, rfl⟩
    by_contra hne
    obtain ⟨hlo, hhi⟩ := abs_lt.1 (lt_of_le_of_ne (roundHaz_spec (n + 1 / 2)).1 hne)
    have hlo' : (n : ℚ) < roundHaz (n + 1 / 2) := by linarith
    have hhi' : (roundHaz (n + 1 / 2 : ℚ) : ℚ) < (n + 1 : ℤ) := by push_cast; linarith
    exact absurd (Int.cast_lt.1 hhi') (Int.not_lt.2 (Int.cast_lt.1 hlo'))

/-- A half is rounded to the side away from 0, so what rounding leaves points back. -/
theorem sub_roundHaz_of_half {x : ℚ} (h : |x - roundHaz x| = 1 / 2) :
    roundHaz x ≠ 0 ∧ x - roundHaz x = if 0 < roundHaz x then -1 / 2 else 1 / 2 := by
  have haway := (roundHaz_spec x).2 h
  have hne : roundHaz x ≠ 0 := by
    intro h0
    rw [h0, Int.cast_zero, abs_zero] at haway
    exact absurd haway (abs_nonneg x).not_gt
  refine ⟨hne, ?_⟩
  split
  case isTrue hpos =>
    rw [abs_of_pos (Int.cast_pos.2 hpos)] at haway
    obtain h | h := (abs_eq (by norm_num)).1 h
    · linarith [le_abs_self x]
    · linarith
  case isFalse hnpos =>
    have hneg : (roundHaz x : ℚ) < 0 := Int.cast_lt_zero.2 (by omega)
    rw [abs_of_neg hneg] at haway
    obtain h | h := (abs_eq (by norm_num)).1 h
    · linarith
    · linarith [neg_le_abs x]

/-- T and the distance to it differ by whole steps, so the tie of R148 is seen in the distance. -/
theorem halfStepTie_iff {p : ℤ} {spr : Nat} {t x : ℚ} {k : ℤ} (h : stepTarget t spr - p = x + spr * k) :
    halfStepTie t spr ↔ |x - roundHaz x| = 1 / 2 := by
  rw [abs_sub_roundHaz_eq_half_iff]
  constructor
  · rintro ⟨n, hn⟩
    refine ⟨n - p - spr * k, ?_⟩
    push_cast
    linarith
  · rintro ⟨n, hn⟩
    refine ⟨n + p + spr * k, ?_⟩
    push_cast
    linarith

/-- After the first delta the motor stands a half step or less from T, which is the whole distance of the second. -/
theorem cmpDelta_add_cmpDelta {p : ℤ} {spr : Nat} {t x : ℚ} {k : ℤ} (hspr : 0 < spr)
    (h : stepTarget t spr - p = x + spr * k) (hd : cmpDelta p spr t = roundHaz x)
    (hlo : -(spr : ℚ) / 2 < x - roundHaz x) :
    cmpDelta (p + cmpDelta p spr t) spr t = roundHaz (x - roundHaz x) := by
  have hs : (1 : ℚ) ≤ spr := Nat.one_le_cast.2 hspr
  have hnear := (abs_le.1 (roundHaz_spec x).1).2
  refine cmpDelta_of_stepDistance hspr hlo (by linarith) (k := k) ?_
  rw [hd]
  push_cast
  linarith

/-- Settles O12: the second delta rounds what the first left, less than a half without a tie and a half with one. With
one step per revolution the distance itself is a half, and the only one in its range is 1/2. -/
theorem repeatedTargetMovesOnlyAtAHalfStepTie : Obligations.RepeatedTargetMovesOnlyAtAHalfStepTie := by
  intro p spr t hspr
  obtain ⟨x, k, hlo, hhi, hx, hd⟩ := exists_stepDistance p t hspr
  have htie := halfStepTie_iff hx
  refine ⟨fun hno => ?noTie, fun hhalf hone => ?tie, fun hhalf hone => ?oneStep⟩
  case noTie =>
    have hs : (1 : ℚ) ≤ spr := Nat.one_le_cast.2 hspr
    have hlt : |x - roundHaz x| < 1 / 2 := lt_of_le_of_ne (roundHaz_spec x).1 (mt htie.2 hno)
    rw [cmpDelta_add_cmpDelta hspr hx hd (by linarith [(abs_lt.1 hlt).1])]
    exact roundHaz_unique (by rwa [Int.cast_zero, sub_zero])
  case tie =>
    have hs : (2 : ℚ) ≤ spr := by exact_mod_cast hone
    obtain ⟨hne, hleft⟩ := sub_roundHaz_of_half (htie.1 hhalf)
    have hbelow := (abs_le.1 (roundHaz_spec x).1).1
    rw [cmpDelta_add_cmpDelta hspr hx hd (by linarith), hleft, hd]
    refine ⟨hne, ?_⟩
    split
    · exact roundHaz_neg_half
    · exact roundHaz_half
  case oneStep =>
    subst hone
    obtain ⟨n, hn⟩ := (abs_sub_roundHaz_eq_half_iff x).1 (htie.1 hhalf)
    have hmin : (-1 : ℚ) < n := by linarith
    have hmax : (n : ℚ) ≤ 0 := by linarith
    obtain rfl : n = 0 := Int.le_antisymm (by exact_mod_cast hmax) (by exact_mod_cast hmin)
    rw [hd, hn, Int.cast_zero, zero_add, roundHaz_half]

end Sys2Proof.Machine

/-! PROOFS. RELEASE and ZERO on a registered motor (spec/41_motor.md R163, R164), the angle a target stands for
(R174), and the one step toward the target that an edge may commit (R169, R170, R172). -/

namespace Sys2Proof.Machine

open Sys2Proof.Claims

/-! ## RELEASE and ZERO (R163, R164) -/

theorem execRelease_of_registered {s : State} {m : SlotIx} (hm : m.val < s.cfg.nMotors) (hb : s.busy = false)
    (hreg : (s.slot m).reg = true) : execRelease m s = .next (s.setSlot m { s.slot m with reg := false }) := by
  rw [execRelease, (isSlot_iff s m).2 hm, hb, hreg]
  rfl

/-- Settles O16: every check of R164 passes, so the command clears REG of slot m. -/
theorem releaseUnregistersTheMotor : Obligations.ReleaseUnregistersTheMotor := fun _ _ hm hb hreg =>
  ⟨_, execRelease_of_registered hm hb hreg, slot_setSlot_self .., setSlot_frame ..⟩

theorem execZero_of_registered {s : State} {m : SlotIx} (hm : m.val < s.cfg.nMotors) (hreg : (s.slot m).reg = true) :
    execZero m s = .next (s.setSlot m { s.slot m with pos := 0, tgt := 0 }) := by
  rw [execZero, (isSlot_iff s m).2 hm, hreg]
  rfl

theorem pending_eq_false_of_pos_eq_tgt {s : State} {m : SlotIx} (h : (s.slot m).pos = (s.slot m).tgt) :
    s.pending m = false :=
  Bool.eq_false_iff.2 fun hp => ((pending_iff s m).1 hp).2 h

/-- Settles O17: the checks of R163 do not ask whether a run is on, and a motor at its target is not pending. -/
theorem zeroSetsPositionAndTargetToZero : Obligations.ZeroSetsPositionAndTargetToZero := by
  intro s m hm hreg
  have hslot := slot_setSlot_self s m { s.slot m with pos := 0, tgt := 0 }
  exact ⟨_, execZero_of_registered hm hreg, hslot, pending_eq_false_of_pos_eq_tgt (by rw [hslot]), setSlot_frame ..⟩

/-! ## The target modulo one revolution (R174) -/

/-- The normalized angle in steps is T less whole revolutions, and not negative. -/
theorem exists_normalizedTarget (t : ℚ) (spr : Nat) : ∃ (y : ℚ) (j : ℤ),
    0 ≤ y ∧ stepTarget t spr = y + spr * j ∧ degreesToSteps (normalizeAngle t) spr = roundHaz y := by
  obtain ⟨j, hj⟩ := normalizeAngle_spec t
  have h0 : 0 ≤ normalizeAngle t := (ratMod_range t (by norm_num)).1
  refine ⟨normalizeAngle t * spr / 360, j, by positivity, ?_, rfl⟩
  rw [stepTarget]
  conv_lhs => rw [hj]
  ring

/-- Away from a tie, rounding commutes with whole steps. -/
theorem roundHaz_add_intCast {x : ℚ} (h : |x - roundHaz x| ≠ 1 / 2) (n : ℤ) :
    roundHaz (x + n) = roundHaz x + n := by
  refine roundHaz_unique ?_
  rw [Int.cast_add, add_sub_add_right_eq_sub]
  exact lt_of_le_of_ne (roundHaz_spec x).1 h

/-- A half that is not negative is rounded up. -/
theorem roundHaz_add_half {n : ℤ} (h : 0 ≤ (n : ℚ) + 1 / 2) : roundHaz (n + 1 / 2) = n + 1 := by
  rw [roundHaz, if_neg h.not_gt, add_assoc, Int.floor_intCast_add]
  norm_num

/-- Settles O13: the distance x from p and the normalized target y differ by whole steps, of which all but p are whole
revolutions. Without a tie they round alike; at a tie y is rounded up and x up or down. -/
theorem targetIsTheAngleModuloOneRevolution : Obligations.TargetIsTheAngleModuloOneRevolution := by
  intro p spr t hspr
  obtain ⟨x, k, -, -, hx, hd⟩ := exists_stepDistance p t hspr
  obtain ⟨y, j, h0, hy, hn⟩ := exists_normalizedTarget t spr
  rw [hd, hn]
  refine ⟨fun hno => ?noTie, fun htie => ?tie⟩
  case noTie =>
    have hxy : y = x + (p + spr * (k - j) : ℤ) := by
      push_cast
      linarith
    rw [hxy, roundHaz_add_intCast (mt (halfStepTie_iff hx).2 hno), add_left_comm, ← add_assoc,
      Int.add_mul_emod_self_left]
  case tie =>
    have hhalf := (halfStepTie_iff hx).1 htie
    obtain ⟨n, hyn⟩ : ∃ n : ℤ, y = n + 1 / 2 :=
      (abs_sub_roundHaz_eq_half_iff y).1 ((halfStepTie_iff (p := 0) (k := j) (by simpa using hy)).1 htie)
    subst hyn
    rw [roundHaz_add_half h0, add_sub_cancel_right]
    obtain hdown | hup := (abs_eq (by norm_num)).1 hhalf
    case inl =>
      have hto : p + roundHaz x = n + spr * (j - k) := by
        qify
        linarith
      exact .inr (by rw [hto, Int.add_mul_emod_self_left])
    case inr =>
      have hto : p + roundHaz x = n + 1 + spr * (j - k) := by
        qify
        linarith
      exact .inl (by rw [hto, Int.add_mul_emod_self_left])

/-! ## The step of a motor at an edge (R169, R170, R172) -/

/-- From s to t slot m keeps its target, and keeps its position or, if it is pending, takes its next step. -/
structure KeepsOrSteps (s t : State) (m : SlotIx) : Prop where
  tgtOf : t.tgtOf m = s.tgtOf m
  posOf : t.posOf m = s.posOf m ∨ s.pending m = true ∧ t.posOf m = s.steppedPos m

theorem SameMotors.keepsOrSteps {s t : State} (h : SameMotors s t) (m : SlotIx) : KeepsOrSteps s t m :=
  ⟨h.tgtOf m, .inl (h.posOf m)⟩

/-- From a state with the same motors the same step is the next one. -/
theorem KeepsOrSteps.of_sameMotors {s s1 t : State} {m : SlotIx} (h : KeepsOrSteps s1 t m) (hs : SameMotors s s1) :
    KeepsOrSteps s t m := by
  obtain ⟨htgt, hpos⟩ := h
  rw [hs.tgtOf] at htgt
  rw [hs.posOf, hs.pending, hs.steppedPos] at hpos
  exact ⟨htgt, hpos⟩

theorem keepsOrSteps_of_kept {s t : State} {m : SlotIx} (htgt : (t.slot m).tgt = (s.slot m).tgt)
    (hpos : (t.slot m).pos = (s.slot m).pos) : KeepsOrSteps s t m :=
  ⟨congrArg BitVec.toInt htgt, .inl (congrArg BitVec.toInt hpos)⟩

/-- The commit of a step issued toward the target (R170). -/
theorem keepsOrSteps_of_commitStep {s t : State} {m : SlotIx} (hp : s.pending m = true)
    (hd : (s.slot m).advDir = s.toward m) (htgt : (t.slot m).tgt = (s.slot m).tgt)
    (hpos : (t.slot m).pos = (s.slot m).commitStep.pos) : KeepsOrSteps s t m where
  tgtOf := congrArg BitVec.toInt htgt
  posOf := .inr ⟨hp, (congrArg BitVec.toInt hpos).trans (commitStep_pos hp _ rfl hd)⟩

theorem sameMotors_issueTick (s : State) : SameMotors s (issueTick s) := by
  refine .trans ?_ (sameMotors_mapSlots _ _ fun _ _ => ⟨rfl, rfl, rfl, rfl, rfl, rfl, rfl, rfl⟩)
  exact sameMotors_of_slots rfl rfl

theorem sameMotors_evalStep (s : State) : SameMotors s (evalStep s) := by
  unfold evalStep
  split
  · exact sameMotors_issueTick s
  · refine .trans ?_ (sameMotors_clearAdv (startHolding s))
    exact sameMotors_of_slots rfl rfl

theorem sameMotors_sleepStep (s : State) : SameMotors s (sleepStep s) := by
  unfold sleepStep
  split <;> exact sameMotors_of_slots rfl rfl

theorem sameMotors_finalStep (p : Pins) (s : State) : SameMotors s (finalStep p s) := by
  unfold finalStep
  (repeat' split) <;> exact sameMotors_of_slots rfl rfl

theorem sameMotors_patchStep (p : Pins) (s : State) : SameMotors s (patchStep p s) := by
  unfold patchStep
  (repeat' split) <;> exact sameMotors_of_slots rfl rfl

/-- The acknowledge of a tick commits the step of every slot in the ADV set, the pending motors (R200, R201). -/
theorem Invariant.keepsOrSteps_commitTick {s t : State} (h : Invariant s) (hf : s.fsm = .emit) (m : SlotIx)
    (hc : t.cfg = s.cfg) (hs : t.slots = s.slots) : KeepsOrSteps s (commitTick t) m := by
  have hadv : (s.slot m).adv = s.pending m := by simpa [hf] using h.advSet m
  have hslot := slot_commitTick t m
  rw [slot_congr hs, hadv] at hslot
  cases hp : s.pending m <;> rw [hp] at hslot
  case false => refine keepsOrSteps_of_kept ?_ ?_ <;> (rw [hslot]; split <;> rfl)
  case true =>
    have hexists : t.isSlot m = true := ((sameMotors_of_slots hc hs).isSlot m).trans (isSlot_of_pending hp)
    rw [if_pos hexists, if_pos rfl] at hslot
    exact keepsOrSteps_of_commitStep hp (h.tickDir hf m hp) (by rw [hslot]; rfl) (by rw [hslot])

theorem Invariant.keepsOrSteps_emitStep {s : State} (h : Invariant s) (p : Pins) (hf : s.fsm = .emit) (m : SlotIx) :
    KeepsOrSteps s (emitStep p s) m := by
  unfold emitStep
  split
  case isTrue => exact ((sameMotors_clearAdv _).keepsOrSteps m).of_sameMotors (sameMotors_of_slots rfl rfl)
  split
  case isTrue => exact h.keepsOrSteps_commitTick hf m rfl rfl
  case isFalse => exact ⟨rfl, .inl rfl⟩

/-- The acknowledge of a worker's emit commits its step, and no other transition moves a motor (R213). -/
theorem Invariant.keepsOrSteps_workersStep {s t : State} (h : Invariant s) (ack : Bool) (g : Option SlotIx)
    (m : SlotIx) (hs : t.slots = s.slots) : KeepsOrSteps s (workersStep s ack g t) m := by
  have hslot := slot_workersStep s t ack g m
  rw [slot_congr hs] at hslot
  obtain ⟨htgt, hpos⟩ := workerStep_pos (s := s) ack g m (s.slot m)
  split at hslot
  · rw [← hslot] at htgt hpos
    obtain hkeep | ⟨-, hw, hcommit⟩ := hpos
    · exact keepsOrSteps_of_kept htgt hkeep
    · obtain ⟨hp, hd⟩ := h.workerDir m hw
      exact keepsOrSteps_of_commitStep hp hd htgt hcommit
  · exact keepsOrSteps_of_kept (congrArg Slot.tgt hslot) (congrArg Slot.pos hslot)

theorem Invariant.keepsOrSteps_runbStep {s : State} (h : Invariant s) (p : Pins) (m : SlotIx) :
    KeepsOrSteps s (runbStep p s) m := by
  unfold runbStep
  split
  case h_1 =>
    split
    case isTrue => exact ((sameMotors_restWorkers _).keepsOrSteps m).of_sameMotors (sameMotors_of_slots rfl rfl)
    split
    · exact h.keepsOrSteps_workersStep true none m rfl
    · exact h.keepsOrSteps_workersStep false none m rfl
  case h_2 =>
    split
    case isTrue => exact ⟨rfl, .inl rfl⟩
    split
    case h_1 g _ => exact h.keepsOrSteps_workersStep false (some g) m rfl
    case h_2 => exact h.keepsOrSteps_workersStep false none m rfl

/-- Only the acknowledge of a tick or of a worker's emit moves a motor. -/
theorem Invariant.keepsOrSteps_engineStep {s : State} (h : Invariant s) (p : Pins) (m : SlotIx) :
    KeepsOrSteps s (engineStep s.fsm p s) m := by
  cases hf : s.fsm with
  | idle => exact ⟨rfl, .inl rfl⟩
  | eval => exact (sameMotors_evalStep s).keepsOrSteps m
  | emit => exact h.keepsOrSteps_emitStep p hf m
  | sleep => exact (sameMotors_sleepStep s).keepsOrSteps m
  | final => exact (sameMotors_finalStep p s).keepsOrSteps m
  | patch => exact (sameMotors_patchStep p s).keepsOrSteps m
  | runb => exact h.keepsOrSteps_runbStep p m

/-- A transaction that is no command leaves the slots and the FSM state as they were (R83, R84). -/
theorem hostTransaction_of_no_command {s s1 : State} (h : hostTransaction s = .next s1)
    (hq : s.accepted = true → s.request.isCmdWrite = false) : s1.slots = s.slots ∧ s1.fsm = s.fsm := by
  rcases hostTransaction_cases h with rfl | ⟨_, rfl⟩ | ⟨_, rfl⟩ | ⟨_, rfl⟩ | ⟨_, rfl⟩ | ⟨_, rfl⟩ | ⟨ha, hw, -⟩
  iterate 6 exact ⟨rfl, rfl⟩
  rw [hq ha] at hw
  cases hw

theorem Invariant.keepsOrSteps_step {s t : State} (h : Invariant s) (ht : step s = .next t) (hr : s.pin.rst = false)
    (hq : s.accepted = true → s.request.isCmdWrite = false) (m : SlotIx) : KeepsOrSteps s t m := by
  obtain ⟨s1, h1⟩ := hostTransaction_next s
  obtain rfl : advance s (engineStep s.fsm s.pin s1) = t := Host.Outcome.next.inj ((step_eq hr h1).symm.trans ht)
  obtain ⟨hslots, hfsm⟩ := hostTransaction_of_no_command h1 hq
  have hengine := (h.after_hostTransaction h1).keepsOrSteps_engineStep s.pin m
  rw [hfsm] at hengine
  obtain ⟨htgt, hpos⟩ := hengine.of_sameMotors (sameMotors_of_slots (hostTransaction_frame h1).1 hslots)
  exact ⟨htgt, hpos⟩

/-- The next step of a pending motor is one toward its target (R169). -/
theorem steppedPos_of_pending {s : State} {m : SlotIx} (h : s.pending m = true) :
    s.posOf m < s.tgtOf m ∧ s.steppedPos m = s.posOf m + 1 ∨
      s.tgtOf m < s.posOf m ∧ s.steppedPos m = s.posOf m - 1 := by
  have hne := posOf_ne_tgtOf h
  by_cases hlt : s.posOf m < s.tgtOf m
  · exact .inl ⟨hlt, by simp [State.steppedPos, State.toward, hlt]⟩
  · exact .inr ⟨by omega, by simp [State.steppedPos, State.toward, hlt]⟩

/-- Settles O51: a commit takes the issued step, which under the invariant is the next one of a pending motor. -/
theorem positionsMoveOneStepTowardTheTarget : Obligations.PositionsMoveOneStepTowardTheTarget := by
  intro s t m h ht hr hq
  obtain ⟨htgt, hkeep | ⟨hp, hstep⟩⟩ := h.keepsOrSteps_step ht hr hq m
  · exact ⟨htgt, .inl hkeep⟩
  · rw [hstep]
    exact ⟨htgt, .inr ⟨hp, steppedPos_of_pending hp⟩⟩

end Sys2Proof.Machine

/-! PROOFS. The edges of a run, one at a time: RUN and its two disciplines, the tick of Discipline A, the workers and
the arbiter of Discipline B, and the holding word both end with (spec/42_scheduler.md R195 to R219). -/

namespace Sys2Proof.Machine

open Sys2Proof.Claims

/-! ## The branches of each engine step (R199 to R219) -/

section Branches

variable {s : State} {p : Pins}

theorem evalStep_of_pending (h : ∃ m, s.pending m = true) : evalStep s = issueTick s :=
  if_pos ((anyPending_iff s).2 h)

theorem evalStep_of_no_pending (h : ∀ m, s.pending m = false) : evalStep s = clearAdv (startHolding s) :=
  if_neg (by rw [(anyPending_eq_false_iff s).2 h]; exact Bool.false_ne_true)

theorem emitStep_of_err (h : p.err = true) :
    emitStep p s = clearAdv (raiseHardwareIOError 0 { s with fsm := .idle }) := if_pos h

theorem emitStep_of_ack (he : p.err = false) (ha : p.ack = true) :
    emitStep p s = commitTick { ackEmit s with sleepCnt := s.sleepLen, fsm := .sleep } := by
  simp [emitStep, he, ha]

theorem emitStep_of_silent (he : p.err = false) (ha : p.ack = false) : emitStep p s = s := by simp [emitStep, he, ha]

theorem finalStep_of_err (h : p.err = true) : finalStep p s = raiseHardwareIOError 0 { s with fsm := .idle } := if_pos h

theorem finalStep_of_ack (he : p.err = false) (ha : p.ack = true) :
    finalStep p s = { ackEmit s with fsm := .idle, done := true } := by
  simp [finalStep, he, ha]

theorem finalStep_of_silent (he : p.err = false) (ha : p.ack = false) : finalStep p s = s := by simp [finalStep, he, ha]

theorem runbStep_of_err {e : SlotIx} (hw : s.emittingWorker = some e) (h : p.err = true) :
    runbStep p s = abortRun e s := by
  simp [runbStep, hw, h]

theorem runbStep_of_ack {e : SlotIx} (hw : s.emittingWorker = some e) (he : p.err = false) (ha : p.ack = true) :
    runbStep p s = workersStep s true none (ackEmit s) := by
  simp [runbStep, hw, he, ha]

theorem runbStep_of_silent {e : SlotIx} (hw : s.emittingWorker = some e) (he : p.err = false) (ha : p.ack = false) :
    runbStep p s = workersStep s false none s := by
  simp [runbStep, hw, he, ha]

theorem runbStep_of_finished (hw : ∀ m, s.isSlot m = true → (s.slot m).w = .idle) (hp : ∀ m, s.pending m = false) :
    runbStep p s = startHolding s := by
  have hn : s.emittingWorker = none := emittingWorker_eq_none fun m hm => by simp [hw m hm]
  simp [runbStep, hn, (allWorkersIdle_iff s).2 hw, (anyPending_eq_false_iff s).2 hp]

/-- The run goes on while a motor is pending or the worker of an existing slot is not idle (R218). -/
def State.unfinished (s : State) : Prop := ∃ m, s.pending m = true ∨ s.isSlot m = true ∧ (s.slot m).w ≠ .idle

theorem not_unfinished_iff :
    ¬ s.unfinished ↔ (∀ m, s.pending m = false) ∧ ∀ m, s.isSlot m = true → (s.slot m).w = .idle := by
  simp [State.unfinished, forall_and]

theorem not_finished_of_unfinished (h : s.unfinished) : (s.allWorkersIdle && !s.anyPending) = false := by
  rw [← Bool.not_eq_true, Bool.and_eq_true, allWorkersIdle_iff, Bool.not_eq_true', anyPending_eq_false_iff]
  exact fun hend => not_unfinished_iff.2 hend.symm h

theorem runbStep_of_choice {g : SlotIx} (hn : s.emittingWorker = none) (hg : s.arbiterChoice = some g) :
    runbStep p s = grantStep g s := by
  have hpending := ((candidate_iff s g).1 (arbiterChoice_some hg).1).1
  simp [runbStep, hn, not_finished_of_unfinished ⟨g, .inl hpending⟩, hg]

theorem runbStep_of_no_choice (hn : s.emittingWorker = none) (hu : s.unfinished) (hg : s.arbiterChoice = none) :
    runbStep p s = workersStep s false none s := by
  simp [runbStep, hn, not_finished_of_unfinished hu, hg]

end Branches

/-! ## One edge of a host that presents nothing -/

/-- Such an edge is the engine step, with the surroundings moved on. -/
theorem step_of_engineStep {s u : State} {f : Fsm} (hr : s.pin.rst = false) (hq : s.request = .idle) (hf : s.fsm = f)
    (hu : engineStep f s.pin s = u) :
    step s = .next { u with pins := s.pins.tail, host := s.host.tail, edge := s.edge + 1 } := by
  subst hf hu
  rw [step_of_idle hr hq, advance, hostAfter_of_idle hq]

/-- What the edge leaves outside the slots, from what the engine step leaves there. -/
theorem surroundings_withSlots (u : State) (p : List Pins) (h : List BusCycle) (e : Nat) (v : Vector Slot 16) :
    ({ u with pins := p, host := h, edge := e } : State).withSlots v =
      { u.withSlots v with pins := p, host := h, edge := e } := rfl

/-- Rewriting the existing slots, read in the words of the statements. -/
theorem slots_mapSlots (s : State) (f : SlotIx → Slot → Slot) :
    (∀ m : SlotIx, m.val < s.cfg.nMotors → (s.mapSlots f).slot m = f m (s.slot m)) ∧
      ∀ m : SlotIx, s.cfg.nMotors ≤ m.val → (s.mapSlots f).slot m = s.slot m :=
  ⟨fun m hm => slot_mapSlots_of_isSlot s f ((isSlot_iff s m).2 hm),
    fun m hm => slot_mapSlots_absent s f ((isSlot_eq_false_iff s m).2 hm)⟩

/-! ## RUN (R195, R196) -/

/-- Settles O22: the branches of `execRun`; Discipline B puts the worker of every existing slot to rest. -/
theorem runStartsTheSelectedDiscipline : Obligations.RunStartsTheSelectedDiscipline := by
  intro s m
  refine ⟨fun hflag => ?flagged, fun hc hi hb => ?busy, fun hc hi hb hm => ?disciplineA,
    fun hc hi hb hm => ?disciplineB⟩
  case flagged => rcases hflag with h | h <;> simp [exec, execRun, h]
  case busy =>
    simp only [exec, execRun, hc, hi, hb, Bool.or_self, Bool.false_eq_true, if_false, if_true]
    rfl
  case disciplineA => simp [exec, execRun, hc, hi, hb, hm]
  case disciplineB =>
    obtain ⟨hrest, habsent⟩ := slots_mapSlots (runStarted .b s) fun _ x => { x with w := .idle, wcnt := 0 }
    exact ⟨restWorkers (runStarted .b s), by simp [exec, execRun, hc, hi, hb, hm, runStarted],
      restWorkers_withSlots .., hrest, habsent⟩

/-! ## Discipline A (R199 to R205) -/

/-- Settles O26: with nothing pending EVAL starts the holding word and empties the ADV set. -/
theorem evalWithNothingPendingEmitsTheHoldingWord : Obligations.EvalWithNothingPendingEmitsTheHoldingWord := by
  intro s hr hq hf hp
  obtain ⟨hclear, habsent⟩ := slots_mapSlots (startHolding s) fun _ x => { x with adv := false }
  refine ⟨_, step_of_engineStep hr hq hf (evalStep_of_no_pending hp), hclear, habsent, ?_⟩
  rw [surroundings_withSlots, clearAdv_withSlots]
  rfl

/-- The sleep of a tick is the delay of some pending motor and at least that of every one (R200). -/
theorem sleepLen_issueTick {s : State} (h : ∃ m, s.pending m = true) :
    (issueTick s).sleepLen.toNat = s.maxPendingDelay ∧
      ∃ m, s.pending m = true ∧ (issueTick s).sleepLen = (s.slot m).delay := by
  obtain ⟨-, m, hm, hmax⟩ := maxPendingDelay_spec s h
  have hlen : (issueTick s).sleepLen = (s.slot m).delay := by simp [issueTick, hmax]
  exact ⟨by rw [hlen, hmax], m, hm, hlen⟩

/-- Settles O27: `issueTick` issues a step in every pending slot, and sleeps the largest of their delays. -/
theorem evalIssuesOneStepOfEveryPendingMotor : Obligations.EvalIssuesOneStepOfEveryPendingMotor := by
  intro s hr hq hf hp
  obtain ⟨hmax, m, hm, hlen⟩ := sleepLen_issueTick hp
  obtain ⟨hissue, habsent⟩ := slots_mapSlots s fun m x =>
    { x with adv := s.pending m, advDir := s.pending m && s.toward m }
  have htick : s.tickPos = fun m =>
      if s.pending m then (if s.posOf m < s.tgtOf m then s.posOf m + 1 else s.posOf m - 1) else s.posOf m := by
    funext m
    simp [State.tickPos, State.steppedPos, State.toward]
  refine ⟨_, step_of_engineStep hr hq hf (evalStep_of_pending hp), hissue, habsent, fun m hm => ?_, ⟨m, hm, hlen⟩, ?_⟩
  · exact ((maxPendingDelay_spec s hp).1 m hm).trans_eq hmax.symm
  · rw [← htick]
    rfl

/-- Settles O28: a failure empties the ADV set, and an acknowledge commits the step of every slot in it. -/
theorem tickCommitsOnlyOnAcknowledge : Obligations.TickCommitsOnlyOnAcknowledge := by
  intro s hr hq hf
  refine ⟨fun herr => ?failed, fun herr hack => ?acknowledged, fun herr hack => ?silent⟩
  case failed =>
    obtain ⟨hclear, habsent⟩ := slots_mapSlots (raiseHardwareIOError 0 { s with fsm := .idle })
      fun _ x => { x with adv := false }
    exact ⟨_, step_of_engineStep hr hq hf (emitStep_of_err herr), hclear, habsent, rfl⟩
  case acknowledged =>
    obtain ⟨hcommit, habsent⟩ := slots_mapSlots { ackEmit s with sleepCnt := s.sleepLen, fsm := .sleep }
      fun _ x => { (if x.adv then x.commitStep else x) with adv := false }
    refine ⟨_, step_of_engineStep hr hq hf (emitStep_of_ack herr hack), fun m hm => ?_, habsent, rfl⟩
    refine (hcommit m hm).trans ?_
    rw [slot_congr (t := { ackEmit s with sleepCnt := s.sleepLen, fsm := .sleep }) (ackEmit_slots s)]
    cases hadv : (s.slot m).adv <;> rfl
  case silent => exact step_of_engineStep hr hq hf (emitStep_of_silent herr hack)

/-- A composed word reads the positions of the registered motors alone (R241). -/
theorem compose_congr {s : State} {P Q : SlotIx → ℤ} (h : ∀ m, s.registered m = true → P m = Q m) :
    s.compose P = s.compose Q := by
  have hfold : (fun (acc : Word) m => if s.registered m then acc ||| s.shifted m (P m) else acc) =
      fun acc m => if s.registered m then acc ||| s.shifted m (Q m) else acc := by
    funext acc m
    cases hm : s.registered m
    · rfl
    · rw [h m hm]
  rw [State.compose, hfold, State.compose]

/-- With no motor pending every registered one is at its target (R20). -/
theorem pos_eq_tgt_of_not_pending {s : State} {m : SlotIx} (hp : s.pending m = false) (hm : s.registered m = true) :
    (s.slot m).pos = (s.slot m).tgt := by
  simpa [State.pending, hm] using hp

/-- The holding word in flight shows every motor at its target (R205). -/
theorem Invariant.holdingWord_at_targets {s : State} (h : Invariant s) (hf : s.fsm = .final) :
    s.emitData = s.compose s.tgtOf ∧ ∀ m, s.registered m = true → (s.slot m).pos = (s.slot m).tgt := by
  obtain ⟨hp, hword, -⟩ := h.holding hf
  have htarget (m : SlotIx) (hm : s.registered m = true) := pos_eq_tgt_of_not_pending (hp m) hm
  exact ⟨hword.trans (compose_congr fun m hm => congrArg BitVec.toInt (htarget m hm)), htarget⟩

/-- Settles O30: the branches of FINAL, and what the invariant says of the holding word in flight. -/
theorem finalEmitEndsTheRun : Obligations.FinalEmitEndsTheRun := by
  intro s h hr hq hf
  refine ⟨fun herr => ?failed, fun herr hack => ⟨?acknowledged, h.holdingWord_at_targets hf⟩, fun herr hack => ?silent⟩
  case failed => exact step_of_engineStep hr hq hf (finalStep_of_err herr)
  case acknowledged => exact step_of_engineStep hr hq hf (finalStep_of_ack herr hack)
  case silent => exact step_of_engineStep hr hq hf (finalStep_of_silent herr hack)

/-! ## The arbiter (R215 to R217) -/

/-- The arbiter's choice is the slot the statements call granted: the distances from RR are compared as integers. -/
theorem granted_of_arbiterChoice {s : State} {g : SlotIx} (hn : s.emittingWorker = none)
    (hg : s.arbiterChoice = some g) : granted s g := by
  obtain ⟨hcandidate, hfirst⟩ := arbiterChoice_some hg
  obtain ⟨hpending, hreq⟩ := (candidate_iff s g).1 hcandidate
  have hpos : 0 < s.cfg.nMotors := Nat.zero_lt_of_lt ((isSlot_iff s g).1 (isSlot_of_pending hpending))
  refine ⟨emittingWorker_none hn, hreq, hpending, fun j hj hjp => ?_⟩
  have hle := hfirst j ((candidate_iff s j).2 ⟨hjp, hj⟩)
  rw [← rrDistance_int s g hpos, ← rrDistance_int s j hpos]
  exact_mod_cast hle

/-- Two existing slots at the same distance from RR are the same slot. -/
theorem eq_of_rrDistance_eq {n : Nat} {r : ℤ} {g j : SlotIx} (hg : g.val < n) (hj : j.val < n)
    (h : ((g.val : ℤ) - r) % n = ((j.val : ℤ) - r) % n) : g = j := by
  have hmod : (g.val : ℤ) % n = (j.val : ℤ) % n := by simpa [Int.ModEq] using Int.ModEq.add_right r h
  rw [Int.emod_eq_of_lt (by omega) (by omega), Int.emod_eq_of_lt (by omega) (by omega)] at hmod
  exact Fin.ext (by omega)

/-- At most one slot is first in cyclic order from RR. -/
theorem granted_unique {s : State} {g j : SlotIx} (hg : granted s g) (hj : granted s j) : j = g := by
  obtain ⟨-, hgreq, hgp, hgfirst⟩ := hg
  obtain ⟨-, hjreq, hjp, hjfirst⟩ := hj
  exact eq_of_rrDistance_eq ((isSlot_iff s j).1 (isSlot_of_pending hjp)) ((isSlot_iff s g).1 (isSlot_of_pending hgp))
    (le_antisymm (hjfirst g hgreq hgp) (hgfirst j hjreq hjp))

/-- RR after a grant (R216). -/
theorem nextRr_val {s : State} (h : s.cfg.WF) (g : SlotIx) : (s.nextRr g).val = (g.val + 1) % s.cfg.nMotors := by
  have hlt := Nat.mod_lt (g.val + 1) (Nat.lt_of_lt_of_le Nat.zero_lt_two h.1)
  have h16 := h.2.1
  rw [State.nextRr, Fin.val_ofNat, Nat.mod_eq_of_lt (by omega)]

/-- A grant leaves, outside the slots, the word, its owner and RR written (R217). -/
theorem grantStep_withSlots (g : SlotIx) (s : State) : (grantStep g s).withSlots s.slots =
    { s with emitData := s.patch g (s.steppedPos g), emot := g, rr := s.nextRr g } := by
  rw [grantStep, workersStep_withSlots]
  rfl

/-- Settles O34: a candidate makes the arbiter choose one (`granted_of_arbiterChoice`), the only one that is first
(`granted_unique`), and the grant leaves no other worker in W_EMIT. -/
theorem arbiterGrantsTheFirstInCyclicOrder : Obligations.ArbiterGrantsTheFirstInCyclicOrder := by
  rintro s hcfg hr hq hf hnone ⟨c, hcreq, hcp⟩
  have hn := emittingWorker_eq_none hnone
  obtain ⟨g, hg⟩ : ∃ g, s.arbiterChoice = some g := by
    refine Option.ne_none_iff_exists'.1 fun hno => ?_
    exact Bool.false_ne_true ((arbiterChoice_none hno c).symm.trans ((candidate_iff s c).2 ⟨hcp, hcreq⟩))
  have hgrant := granted_of_arbiterChoice hn hg
  have ⟨_, hreq, hpending, _⟩ := hgrant
  refine ⟨g, _, hgrant, fun j hj => granted_unique hgrant hj,
    step_of_engineStep hr hq hf (runbStep_of_choice hn hg), ?slot, ?rr, fun j hj hjs => ?others, ?frame⟩
  case slot =>
    refine (slot_grantStep g s g).trans ?_
    simp [isSlot_of_pending hpending, workerStep, hreq, hpending, State.toward]
  case rr => exact (congrArg Fin.val (by simp [grantStep])).trans (nextRr_val hcfg g)
  case others =>
    intro hemit
    have hslot := slot_grantStep g s j
    rw [if_pos hjs] at hslot
    rcases workerStep_emit ((congrArg Slot.w hslot).symm.trans hemit) with ⟨hw, -⟩ | ⟨-, hgj, -⟩
    · exact hnone j hjs hw
    · exact hj (Option.some.inj hgj).symm
  case frame =>
    have hstep : s.steppedPos g = if s.posOf g < s.tgtOf g then s.posOf g + 1 else s.posOf g - 1 := by
      simp [State.steppedPos, State.toward]
    rw [surroundings_withSlots, grantStep_withSlots, hstep]
    simp [grantStep, moved]

/-! ## The workers (R211 to R214, R218, R219) -/

section Transitions

variable {s : State} {ack : Bool} {g : Option SlotIx} {m : SlotIx} {x : Slot}

theorem with_worker_self {k : WState} (hw : x.w = k) : { x with w := k } = x := by rw [← hw]

theorem workerStep_of_idle (hw : x.w = .idle) :
    workerStep s ack g m x = { x with w := if s.pending m then .req else .idle } := by
  cases hp : s.pending m <;> simp [workerStep, hw, hp, with_worker_self hw]

theorem workerStep_of_withdrawn (hw : x.w = .req) (hp : s.pending m = false) :
    workerStep s ack g m x = { x with w := .idle } := by
  simp [workerStep, hw, hp]

theorem workerStep_of_waiting (hw : x.w = .req) (hp : s.pending m = true) (hg : g ≠ some m) :
    workerStep s ack g m x = x := by
  simp [workerStep, hw, hp, hg]

theorem workerStep_of_granted (hw : x.w = .req) (hp : s.pending m = true) (hg : g = some m) :
    workerStep s ack g m x = { x with w := .emit, advDir := s.toward m } := by
  simp [workerStep, hw, hp, hg]

theorem workerStep_of_acknowledged (hw : x.w = .emit) :
    workerStep s true g m x = { x.commitStep with w := .sleep, wcnt := x.delay } := by
  simp [workerStep, hw]

theorem workerStep_of_unanswered (hw : x.w = .emit) : workerStep s false g m x = x := by
  simp [workerStep, hw]

theorem workerStep_of_asleep (hw : x.w = .sleep) (hc : 1 < x.wcnt.toNat) :
    workerStep s ack g m x = { x with wcnt := x.wcnt - 1 } := by
  simp [workerStep, hw, hc]

theorem workerStep_of_waking (hw : x.w = .sleep) (hc : x.wcnt.toNat ≤ 1) :
    workerStep s ack g m x = { x with wcnt := 0, w := if s.pending m then .req else .idle } := by
  simp [workerStep, hw, not_lt.2 hc]

/-- Only a worker in W_EMIT reads the acknowledge (R213). -/
theorem workerStep_of_not_emit (hw : x.w ≠ .emit) : workerStep s ack g m x = workerStep s false g m x := by
  unfold workerStep
  split
  case h_3 he => exact absurd he hw
  all_goals rfl

end Transitions

/-- What an edge of RUNB without a failed emit does to the slots: every existing worker makes its transition, and no
slot is granted but the one that is first in cyclic order (R210). -/
structure WorkersMove (s t : State) (ack : Bool) : Prop where
  moves : ∃ g, (∀ k, g = some k → granted s k) ∧
    ∀ m, s.isSlot m = true → t.slot m = workerStep s ack g m (s.slot m)
  absent : ∀ m, s.isSlot m = false → t.slot m = s.slot m

theorem workersMove_workersStep {s t : State} {ack a : Bool} {g : Option SlotIx} (hg : ∀ k, g = some k → granted s k)
    (hc : t.cfg = s.cfg) (hs : t.slots = s.slots)
    (ha : ack = a ∨ ∀ m, s.isSlot m = true → (s.slot m).w ≠ .emit) : WorkersMove s (workersStep s a g t) ack := by
  have hslot (m : SlotIx) : (workersStep s a g t).slot m =
      if s.isSlot m then workerStep s a g m (s.slot m) else s.slot m := by
    rw [slot_workersStep, (sameMotors_of_slots hc hs).isSlot, slot_congr hs]
  refine ⟨⟨g, hg, fun m hm => ?_⟩, fun m hm => by rw [hslot, hm]; rfl⟩
  rw [hslot, if_pos hm]
  rcases ha with rfl | ha
  · rfl
  · rw [workerStep_of_not_emit (ack := ack) (ha m hm), workerStep_of_not_emit (ack := a) (ha m hm)]

/-- At the end of the run every worker is idle with nothing pending, so its transition changes nothing (R218). -/
theorem workersMove_startHolding {s : State} (hw : ∀ m, s.isSlot m = true → (s.slot m).w = .idle)
    (hp : ∀ m, s.pending m = false) (ack : Bool) : WorkersMove s (startHolding s) ack := by
  refine ⟨⟨none, by simp, fun m hm => ?_⟩, fun m _ => rfl⟩
  rw [workerStep_of_idle (hw m hm), hp m, show (startHolding s).slot m = s.slot m from rfl]
  exact (with_worker_self (hw m hm)).symm

theorem workersMove_runbStep {s : State} {p : Pins}
    (herr : p.err = true → ∀ m, s.isSlot m = true → (s.slot m).w ≠ .emit) : WorkersMove s (runbStep p s) p.ack := by
  cases he : s.emittingWorker with
  | some e =>
    obtain ⟨hslot, hw⟩ := emittingWorker_some he
    have hno : p.err = false := by
      rw [← Bool.not_eq_true]
      exact fun h => herr h e hslot hw
    cases hack : p.ack
    · rw [runbStep_of_silent he hno hack]
      exact workersMove_workersStep (by simp) rfl rfl (.inl rfl)
    · rw [runbStep_of_ack he hno hack]
      exact workersMove_workersStep (by simp) rfl rfl (.inl rfl)
  | none =>
    have hnone := emittingWorker_none he
    by_cases hu : s.unfinished
    · cases hg : s.arbiterChoice with
      | some g =>
        rw [runbStep_of_choice he hg]
        exact workersMove_workersStep (fun k hk => by cases hk; exact granted_of_arbiterChoice he hg) rfl rfl
          (.inr hnone)
      | none =>
        rw [runbStep_of_no_choice he hu hg]
        exact workersMove_workersStep (by simp) rfl rfl (.inr hnone)
    · obtain ⟨hp, hw⟩ := not_unfinished_iff.1 hu
      rw [runbStep_of_finished hw hp]
      exact workersMove_startHolding hw hp p.ack

/-- Outside the slots an edge of RUNB with an emit in flight and no failure writes at most OUT, on the acknowledge
(R213, R248). -/
theorem runbStep_withSlots_of_emitting {s : State} {p : Pins} {e : SlotIx} (he : s.emittingWorker = some e)
    (hno : p.err = false) : (runbStep p s).withSlots s.slots = if p.ack then ackEmit s else s := by
  cases hack : p.ack
  · rw [runbStep_of_silent he hno hack, workersStep_withSlots]
    rfl
  · rw [runbStep_of_ack he hno hack, workersStep_withSlots]
    rfl

theorem exists_emittingWorker {s : State} {e : SlotIx} (hs : s.isSlot e = true) (hw : (s.slot e).w = .emit) :
    ∃ k, s.emittingWorker = some k :=
  Option.ne_none_iff_exists'.1 fun hn => emittingWorker_none hn e hs hw

/-- Settles O33: every existing slot makes its transition (`workersMove_runbStep`), read case by case; outside the slots
an edge with an emit in flight writes OUT at most, and one that neither grants nor ends the run writes nothing. -/
theorem workersFollowTheirTransitions : Obligations.WorkersFollowTheirTransitions := by
  intro s m hr hq hf herr hm
  have hslot := (isSlot_iff s m).2 hm
  obtain ⟨⟨g, hg, hmove⟩, habsent⟩ := workersMove_runbStep (p := s.pin) herr
  have hstep := step_of_engineStep hr hq hf (Eq.refl (runbStep s.pin s))
  have emits (h : ∃ e, s.isSlot e = true ∧ (s.slot e).w = .emit) :
      (runbStep s.pin s).withSlots s.slots = if s.pin.ack then ackEmit s else s := by
    obtain ⟨e, hes, hew⟩ := h
    obtain ⟨k, hk⟩ := exists_emittingWorker hes hew
    exact runbStep_withSlots_of_emitting hk (by rw [← Bool.not_eq_true]; exact fun h => herr h e hes hew)
  have out (hw : (s.slot m).w = .emit) : (runbStep s.pin s).out = if s.pin.ack then s.emitData else s.out := by
    refine (congrArg State.out (emits ⟨m, hslot, hw⟩)).trans ?_
    cases s.pin.ack <;> rfl
  refine ⟨_, hstep, fun hw => (hmove m hslot).trans (workerStep_of_idle hw),
    fun hw hp => (hmove m hslot).trans (workerStep_of_withdrawn hw hp),
    fun hw hp hno => (hmove m hslot).trans (workerStep_of_waiting hw hp fun h => hno (hg m h)),
    fun hw hack => ⟨?acknowledged, ?outAck⟩, fun hw hack => ⟨?silent, ?outSilent⟩,
    fun hw hc => (hmove m hslot).trans (workerStep_of_asleep hw hc),
    fun hw hc => (hmove m hslot).trans (workerStep_of_waking hw hc),
    fun j hj => habsent j ((isSlot_eq_false_iff s j).2 hj), fun he hack => ?frameAck, fun he hack => ?frameSilent,
    fun hnone hno hu => ?frameNone⟩
  case acknowledged => exact (hmove m hslot).trans (by rw [hack, workerStep_of_acknowledged hw]; rfl)
  case outAck => simpa [hack] using out hw
  case silent => exact (hmove m hslot).trans (by rw [hack, workerStep_of_unanswered hw])
  case outSilent => simpa [hack] using out hw
  case frameAck =>
    rw [surroundings_withSlots, emits he, hack]
    rfl
  case frameSilent =>
    rw [surroundings_withSlots, emits he, hack]
    rfl
  case frameNone =>
    have hn := emittingWorker_eq_none hnone
    have hchoice : s.arbiterChoice = none :=
      Option.eq_none_iff_forall_ne_some.2 fun k hk => hno k (granted_of_arbiterChoice hn hk)
    rw [surroundings_withSlots, runbStep_of_no_choice hn hu hchoice, workersStep_withSlots]
    rfl

/-- Settles O35: with every worker idle and nothing pending the engine starts the holding word. -/
theorem disciplineBEndsWithTheHoldingWord : Obligations.DisciplineBEndsWithTheHoldingWord :=
  fun _ hr hq hf hw hp => step_of_engineStep hr hq hf (runbStep_of_finished hw hp)

/-- Settles O36: the worker in W_EMIT is the one the engine finds, and the abort puts every existing worker to rest. -/
theorem workerEmitErrorAbortsTheRun : Obligations.WorkerEmitErrorAbortsTheRun := by
  intro s e h hr hq hf he herr
  obtain ⟨hrest, habsent⟩ := slots_mapSlots (raiseHardwareIOError e { s with fsm := .idle })
    fun _ x => { x with w := .idle, wcnt := 0 }
  exact ⟨_, step_of_engineStep hr hq hf (runbStep_of_err (h.emittingWorker_eq he) herr), hrest, habsent, rfl⟩

end Sys2Proof.Machine

/-! PROOFS. Several edges of a host that at most reads: the tick of Discipline A from one EVAL to the next
(spec/42_scheduler.md R204, R209). -/

namespace Sys2Proof.Machine

open Sys2Proof.Claims

/-! ## The edges of a host that at most reads -/

/-- No reset comes, and the host only reads registers or presents nothing. -/
structure Polled (s : State) : Prop where
  pins : ∀ p ∈ s.pins, p.rst = false
  host : onlyReads s.host

/-- The states agree in all that the invariant and the end of a run speak of; the surroundings and SNAP may differ. -/
structure SameBlock (s t : State) : Prop where
  cfg : t.cfg = s.cfg
  slots : t.slots = s.slots
  fsm : t.fsm = s.fsm
  done : t.done = s.done
  out : t.out = s.out
  emitData : t.emitData = s.emitData
  sleepCnt : t.sleepCnt = s.sleepCnt
  sleepLen : t.sleepLen = s.sleepLen
  rr : t.rr = s.rr
  emot : t.emot = s.emot

namespace SameBlock

variable {s t u : State}

theorem refl (s : State) : SameBlock s s := ⟨rfl, rfl, rfl, rfl, rfl, rfl, rfl, rfl, rfl, rfl⟩

theorem trans (h : SameBlock s t) (g : SameBlock t u) : SameBlock s u :=
  ⟨g.cfg.trans h.cfg, g.slots.trans h.slots, g.fsm.trans h.fsm, g.done.trans h.done, g.out.trans h.out,
    g.emitData.trans h.emitData, g.sleepCnt.trans h.sleepCnt, g.sleepLen.trans h.sleepLen, g.rr.trans h.rr,
    g.emot.trans h.emot⟩

theorem sameMotors (h : SameBlock s t) : SameMotors s t := sameMotors_of_slots h.cfg h.slots

theorem slot (h : SameBlock s t) (m : SlotIx) : t.slot m = s.slot m := slot_congr h.slots m

theorem invariant (h : SameBlock s t) (hs : Invariant s) : Invariant t :=
  hs.congr h.cfg h.slots h.fsm h.out h.emitData h.sleepCnt h.sleepLen h.rr h.emot

end SameBlock

theorem Polled.request {s : State} (h : Polled s) : s.request = .idle ∨ ∃ a, s.request = .read a := by
  unfold State.request
  cases hh : s.host with
  | nil => exact .inl rfl
  | cons c rest => exact h.host c (by simp [hh])

/-- An edge of such a host is the engine step, and the host goes on reading. -/
theorem Polled.step {s u : State} {f : Fsm} (h : Polled s) (hf : s.fsm = f) (hu : engineStep f s.pin s = u) :
    ∃ t, Machine.step s = .next t ∧ Polled t ∧ t.pins = s.pins.tail ∧ SameBlock u t := by
  subst hf hu
  obtain ⟨x, hx⟩ := step_of_read (pin_rst h.pins) h.request
  exact ⟨_, hx, ⟨fun p hp => h.pins p (List.mem_of_mem_tail hp), fun c hc => h.host c (List.mem_of_mem_tail hc)⟩, rfl,
    rfl, rfl, rfl, rfl, rfl, rfl, rfl, rfl, rfl, rfl⟩

theorem run_zero (s : State) : Sys2Proof.core.run 0 s = .next s := rfl

/-- A run followed by one more edge. -/
theorem run_snoc {s t u : State} {k : Nat} (h : Sys2Proof.core.run k s = .next t) (ht : step t = .next u) :
    Sys2Proof.core.run (k + 1) s = .next u := by
  rw [run_add h, run_succ ht, run_zero]

/-! ## A tick (R200, R201, R203) -/

/-- While the latch is silent a tick's emit stays in flight as it is (R201). -/
theorem run_unanswered {s : State} (hf : s.fsm = .emit) (h : Polled s) {n : Nat} {rest : List Pins}
    (hp : s.pins = List.replicate n Pins.quiet ++ rest) {k : Nat} (hk : k ≤ n) : ∃ t : State,
      Sys2Proof.core.run k s = .next t ∧ Polled t ∧ t.pins = List.replicate (n - k) Pins.quiet ++ rest ∧
        SameBlock s t := by
  induction k with
  | zero => exact ⟨s, run_zero s, h, hp, .refl s⟩
  | succ k ih =>
    obtain ⟨u, hrun, hpolled, hpins, same⟩ := ih (by omega)
    rw [show n - k = n - (k + 1) + 1 by omega, List.replicate_succ] at hpins
    have hquiet : u.pin = .quiet := by rw [State.pin, hpins]; rfl
    obtain ⟨t, hstep, hpolled, htail, same'⟩ :=
      hpolled.step (same.fsm.trans hf) (emitStep_of_silent (by rw [hquiet]; rfl) (by rw [hquiet]; rfl))
    exact ⟨t, run_snoc hrun hstep, hpolled, by rw [htail, hpins]; rfl, same.trans same'⟩

/-- The commit of a tick puts every motor where the tick's word shows it (R201, R204). -/
theorem Invariant.posOf_commitTick {s t : State} (h : Invariant s) (hf : s.fsm = .emit) (hc : t.cfg = s.cfg)
    (hs : t.slots = s.slots) (m : SlotIx) : (commitTick t).posOf m = s.tickPos m := by
  have hadv : (s.slot m).adv = s.pending m := by simpa [hf] using h.advSet m
  have hslot := slot_commitTick t m
  rw [slot_congr hs, hadv] at hslot
  unfold State.posOf State.tickPos
  cases hp : s.pending m <;> rw [hp] at hslot
  case false =>
    rw [hslot]
    split <;> rfl
  case true =>
    have hexists : t.isSlot m = true := ((sameMotors_of_slots hc hs).isSlot m).trans (isSlot_of_pending hp)
    rw [if_pos hexists, if_pos rfl] at hslot
    rw [hslot]
    exact commitStep_pos hp _ rfl (h.tickDir hf m hp)

/-- The first answer of a tick's emit, after n silent edges, commits the tick and starts its sleep (R201). -/
theorem Invariant.run_answered {s : State} (h : Invariant s) (hf : s.fsm = .emit) (hpolled : Polled s) {n : Nat}
    {tail : List Pins} (hp : s.pins = List.replicate n Pins.quiet ++ ⟨false, true, false⟩ :: tail) :
    ∃ t : State, Sys2Proof.core.run (n + 1) s = .next t ∧ Polled t ∧ t.fsm = .sleep ∧ t.sleepCnt = s.sleepLen ∧
      t.out = s.emitData ∧ ∀ m, t.posOf m = s.tickPos m ∧ t.tgtOf m = s.tgtOf m := by
  obtain ⟨u, hrun, hpolled, hpins, same⟩ := run_unanswered hf hpolled hp (Nat.le_refl n)
  have hpin : u.pin = ⟨false, true, false⟩ := by rw [State.pin, hpins, Nat.sub_self]; rfl
  have huf := same.fsm.trans hf
  obtain ⟨t, hstep, hpolled, -, hcommit⟩ :=
    hpolled.step huf (emitStep_of_ack (by rw [hpin]) (by rw [hpin]))
  have hu := same.invariant h
  refine ⟨t, run_snoc hrun hstep, hpolled, hcommit.fsm, hcommit.sleepCnt.trans same.sleepLen,
    hcommit.out.trans same.emitData, fun m => ⟨?_, ?_⟩⟩
  · rw [hcommit.sameMotors.posOf, ← same.sameMotors.tickPos]
    exact hu.posOf_commitTick huf rfl rfl m
  · rw [hcommit.sameMotors.tgtOf, ← same.sameMotors.tgtOf]
    exact (hu.keepsOrSteps_commitTick huf m rfl rfl).tgtOf

/-- While the sleep goes on only its counter moves (R203). -/
theorem run_asleep {s : State} (hf : s.fsm = .sleep) (h : Polled s) {k : Nat} (hk : k < s.sleepCnt.toNat) :
    ∃ u : State, Sys2Proof.core.run k s = .next u ∧ Polled u ∧ u.fsm = .sleep ∧
      u.sleepCnt.toNat = s.sleepCnt.toNat - k ∧ SameMotors s u ∧ u.out = s.out := by
  induction k with
  | zero => exact ⟨s, run_zero s, h, hf, rfl, sameMotors_of_slots rfl rfl, rfl⟩
  | succ k ih =>
    obtain ⟨u, hrun, hpolled, huf, hcnt, hsame, hout⟩ := ih (by omega)
    have hc : 1 < u.sleepCnt.toNat := by omega
    obtain ⟨t, hstep, hpolled, -, hcount⟩ := hpolled.step huf (if_pos hc)
    refine ⟨t, run_snoc hrun hstep, hpolled, hcount.fsm.trans huf, ?_,
      hsame.trans (sameMotors_of_slots hcount.cfg hcount.slots), hcount.out.trans hout⟩
    rw [hcount.sleepCnt]
    exact (toNat_sub_one hc).trans (by omega)

/-- A whole sleep leads to EVAL, with the motors and OUT as they were (R203). -/
theorem run_wakes {s : State} (hf : s.fsm = .sleep) (h : Polled s) (hc : 1 ≤ s.sleepCnt.toNat) :
    ∃ t : State, Sys2Proof.core.run s.sleepCnt.toNat s = .next t ∧ t.fsm = .eval ∧ SameMotors s t ∧
      t.out = s.out := by
  obtain ⟨u, hrun, hpolled, huf, hcnt, hsame, hout⟩ := run_asleep hf h (k := s.sleepCnt.toNat - 1) (by omega)
  obtain ⟨t, hstep, -, -, hwake⟩ := hpolled.step huf (if_neg (show ¬ 1 < u.sleepCnt.toNat by omega))
  refine ⟨t, ?_, hwake.fsm, hsame.trans (sameMotors_of_slots hwake.cfg hwake.slots), hwake.out.trans hout⟩
  rw [← Nat.sub_add_cancel hc]
  exact run_snoc hrun hstep

/-- Settles O31: one edge of EVAL, lam edges until the answer (`run_unanswered`, `Invariant.run_answered`), and the
sleep the answer starts (`run_asleep`, `run_wakes`). -/
theorem tickTakesOneLatencyAndTheLargestDelay : Obligations.TickTakesOneLatencyAndTheLargestDelay := by
  intro s lam first tail h hf hp hhost hlam hfirst htail hpins
  have hpolled : Polled s := by
    refine ⟨fun p hmem => ?_, hhost⟩
    rw [hpins, List.mem_cons, List.mem_append, List.mem_cons] at hmem
    rcases hmem with rfl | hmem | rfl | hmem
    · exact hfirst
    · rw [List.eq_of_mem_replicate hmem]
      rfl
    · rfl
    · exact htail p hmem
  obtain ⟨hmax, m₀, hm₀, hlen⟩ := sleepLen_issueTick hp
  -- The EVAL edge, the edge of the answer, and the sleep.
  obtain ⟨e, hstep, hpolled, hepins, hissue⟩ := hpolled.step hf (evalStep_of_pending hp)
  rw [hpins, List.tail_cons] at hepins
  have same := (sameMotors_issueTick s).trans hissue.sameMotors
  have inv := hissue.invariant (h.after_issueTick hf ((anyPending_iff s).2 hp))
  obtain ⟨u, hrun, hupolled, huf, hucnt, huout, humotors⟩ := inv.run_answered hissue.fsm hpolled hepins
  rw [Nat.sub_add_cancel hlam] at hrun
  have hanswered : Sys2Proof.core.run (1 + lam) s = .next u := by rw [Nat.add_comm, run_succ hstep, hrun]
  have hcnt : u.sleepCnt.toNat = (issueTick s).sleepLen.toNat := by rw [hucnt, hissue.sleepLen]
  have hslept : 1 ≤ u.sleepCnt.toNat :=
    Nat.one_le_iff_ne_zero.2 fun h0 => inv.tickSleep hissue.fsm (hucnt ▸ BitVec.eq_of_toNat_eq h0)
  obtain ⟨t, hwake, htf, hsame, hout⟩ := run_wakes huf hupolled hslept
  have hword : e.emitData = s.compose s.tickPos := hissue.emitData
  refine ⟨t, u.sleepCnt.toNat, ⟨m₀, hm₀, by rw [hcnt, hlen]⟩,
    fun m hm => by rw [hcnt, hmax]; exact (maxPendingDelay_spec s hp).1 m hm, fun k hk₁ hk₂ => ?during,
    (run_add hanswered _).trans hwake, htf, fun m => ?motors, hout.trans (huout.trans hword)⟩
  case motors =>
    obtain ⟨hpos, htgt⟩ := humotors m
    exact ⟨(hsame.posOf m).trans (hpos.trans (same.tickPos m)), (hsame.tgtOf m).trans (htgt.trans (same.tgtOf m))⟩
  case during =>
    by_cases hk : k ≤ lam
    · obtain ⟨v, hv, -, -, hunanswered⟩ := run_unanswered hissue.fsm hpolled hepins (k := k - 1) (by omega)
      refine ⟨v, ?_, fun _ => ⟨hunanswered.fsm.trans hissue.fsm, hunanswered.emitData.trans hword⟩, fun hlt => by omega⟩
      rw [← Nat.sub_add_cancel hk₁, run_succ hstep, hv]
    · obtain ⟨v, hv, -, hvf, -⟩ := run_asleep huf hupolled (k := k - (1 + lam)) (by omega)
      refine ⟨v, ?_, fun hle => absurd hle hk, fun _ => hvf⟩
      rw [show k = 1 + lam + (k - (1 + lam)) by omega, run_add hanswered, hv]

end Sys2Proof.Machine

/-! PROOFS. What every edge of a run keeps when the host at most reads and no emit fails, in either discipline: the
motors' set-up and targets, the positions of what is not registered, and that the run goes on or has ended at the
targets (spec/42_scheduler.md R205, R220). -/

namespace Sys2Proof.Machine

open Sys2Proof.Claims

/-! ## What no engine step writes: the set-up of the motors and their targets -/

/-- Slot contents with the same registration, coil set-up and target. -/
structure Slot.SameDrive (x y : Slot) : Prop where
  reg : y.reg = x.reg
  dirInv : y.dirInv = x.dirInv
  half : y.half = x.half
  bitOffset : y.bitOffset = x.bitOffset
  tgt : y.tgt = x.tgt

theorem Slot.SameDrive.refl (x : Slot) : x.SameDrive x := ⟨rfl, rfl, rfl, rfl, rfl⟩

/-- States with the same parameters whose motors have the same set-up and targets, wherever they stand. -/
structure SameDrives (s t : State) : Prop where
  cfg : t.cfg = s.cfg
  slot : ∀ m, (s.slot m).SameDrive (t.slot m)

namespace SameDrives

variable {s t u : State}

theorem refl (s : State) : SameDrives s s := ⟨rfl, fun _ => .refl _⟩

theorem trans (h : SameDrives s t) (g : SameDrives t u) : SameDrives s u := by
  refine ⟨g.cfg.trans h.cfg, fun m => ?_⟩
  obtain ⟨hreg, hdir, hhalf, hoff, htgt⟩ := h.slot m
  obtain ⟨greg, gdir, ghalf, goff, gtgt⟩ := g.slot m
  exact ⟨greg.trans hreg, gdir.trans hdir, ghalf.trans hhalf, goff.trans hoff, gtgt.trans htgt⟩

theorem registered (h : SameDrives s t) (m : SlotIx) : t.registered m = s.registered m := by
  simp [State.registered, State.isSlot, h.cfg, (h.slot m).reg]

theorem tgtOf (h : SameDrives s t) (m : SlotIx) : t.tgtOf m = s.tgtOf m := by simp [State.tgtOf, (h.slot m).tgt]

/-- A composed word reads the positions it is given, not those of the slots (R241). -/
theorem compose (h : SameDrives s t) (P : SlotIx → ℤ) : t.compose P = s.compose P := by
  have hshifted (m : SlotIx) (p : ℤ) : t.shifted m p = s.shifted m p := by
    simp [State.shifted, State.pattern, Slot.pattern, Slot.seqIndex, Slot.phase, Slot.seqLen, h.cfg, (h.slot m).half,
      (h.slot m).dirInv, (h.slot m).bitOffset]
  simp [State.compose, h.registered, hshifted]

end SameDrives

theorem SameMotors.sameDrives {s t : State} (h : SameMotors s t) : SameDrives s t :=
  ⟨h.cfg, fun m => ⟨h.reg m, h.dirInv m, h.half m, h.bitOffset m, h.tgt m⟩⟩

theorem sameDrives_mapSlots {s t : State} {f : SlotIx → Slot → Slot} (hc : t.cfg = s.cfg) (hs : t.slots = s.slots)
    (hf : ∀ m (x : Slot), x.SameDrive (f m x)) : SameDrives s (t.mapSlots f) := by
  refine ⟨(mapSlots_cfg t f).trans hc, fun m => ?_⟩
  rw [slot_mapSlots, slot_congr hs]
  split
  · exact hf m _
  · exact .refl _

theorem sameDrive_workerStep (s : State) (ack : Bool) (g : Option SlotIx) (m : SlotIx) (x : Slot) :
    x.SameDrive (workerStep s ack g m x) := by
  unfold workerStep
  split <;> (repeat' split) <;> exact ⟨rfl, rfl, rfl, rfl, rfl⟩

theorem sameDrives_engineStep (f : Fsm) (p : Pins) (s : State) : SameDrives s (engineStep f p s) := by
  have workers (ack : Bool) (g : Option SlotIx) {t : State} (hc : t.cfg = s.cfg) (hs : t.slots = s.slots) :
      SameDrives s (workersStep s ack g t) := sameDrives_mapSlots hc hs (sameDrive_workerStep s ack g)
  cases f with
  | idle => exact .refl s
  | eval => exact (sameMotors_evalStep s).sameDrives
  | emit =>
    simp only [engineStep, emitStep]
    split
    · exact sameDrives_mapSlots rfl rfl fun _ _ => ⟨rfl, rfl, rfl, rfl, rfl⟩
    split
    · exact sameDrives_mapSlots rfl rfl fun _ x => by cases x.adv <;> exact ⟨rfl, rfl, rfl, rfl, rfl⟩
    · exact .refl s
  | sleep => exact (sameMotors_sleepStep s).sameDrives
  | final => exact (sameMotors_finalStep p s).sameDrives
  | patch => exact (sameMotors_patchStep p s).sameDrives
  | runb =>
    simp only [engineStep, runbStep]
    split
    case h_1 e _ =>
      split
      · exact .trans (t := raiseHardwareIOError e { s with fsm := .idle }) ⟨rfl, fun _ => .refl _⟩
          (sameMotors_restWorkers _).sameDrives
      split
      · exact workers true none rfl rfl
      · exact workers false none rfl rfl
    case h_2 =>
      split
      · exact ⟨rfl, fun _ => .refl _⟩
      split
      case h_1 g _ => exact workers false (some g) (t := { startEmit _ g s with rr := s.nextRr g }) rfl rfl
      case h_2 => exact workers false none rfl rfl

/-! ## A run goes on or has ended at the targets (R205) -/

/-- A run is active, and a tick's emit, if one is in flight, moves some motor. -/
structure Running (s : State) : Prop where
  busy : s.busy = true
  tick : s.fsm = .emit → ∃ m, s.pending m = true

/-- A run has ended: every registered motor is at its target, and OUT shows it there. -/
structure Ended (s : State) : Prop where
  fsm : s.fsm = .idle
  done : s.done = true
  target : ∀ m, s.registered m = true → (s.slot m).pos = (s.slot m).tgt
  out : s.out = s.compose s.tgtOf

theorem SameBlock.running {s t : State} (h : SameBlock s t) (hs : Running s) : Running t := by
  refine ⟨?_, fun hf => ?_⟩
  · simp only [State.busy, h.fsm]
    exact hs.busy
  · obtain ⟨m, hm⟩ := hs.tick (h.fsm.symm.trans hf)
    exact ⟨m, (h.sameMotors.pending m).trans hm⟩

theorem SameBlock.ended {s t : State} (h : SameBlock s t) (hs : Ended s) : Ended t where
  fsm := h.fsm.trans hs.fsm
  done := h.done.trans hs.done
  target m hm := by
    rw [h.slot]
    exact hs.target m ((h.sameMotors.registered m).symm.trans hm)
  out := by rw [h.out, hs.out, h.sameMotors.compose, funext h.sameMotors.tgtOf]

theorem running_of_fsm {s : State} (hb : s.busy = true) (hf : s.fsm ≠ .emit) : Running s := ⟨hb, fun h => absurd h hf⟩

/-- The acknowledged holding word ends the run (R205). -/
theorem Invariant.ended_of_final {s : State} (h : Invariant s) (hf : s.fsm = .final) :
    Ended { ackEmit s with fsm := .idle, done := true } := by
  obtain ⟨hword, htarget⟩ := h.holdingWord_at_targets hf
  exact ⟨rfl, rfl, htarget, hword⟩

/-- In RUNB, an edge without a failure stays in RUNB or starts the holding word (R218). -/
theorem runbStep_fsm {s : State} {p : Pins} (hf : s.fsm = .runb) (hp : p.err = false) :
    (runbStep p s).fsm = .runb ∨ (runbStep p s).fsm = .final := by
  unfold runbStep
  rw [hp]
  (repeat' split) <;> simp_all [grantStep, startHolding]

/-- An edge of a run at which no emit fails goes on with the run or ends it at the targets. -/
theorem Running.after_engineStep {s : State} (hr : Running s) (h : Invariant s) {p : Pins} (hp : p.err = false) :
    Running (engineStep s.fsm p s) ∨ Ended (engineStep s.fsm p s) := by
  cases hf : s.fsm with
  | idle | patch => simpa [State.busy, hf] using hr.busy
  | eval =>
    rw [engineStep]
    by_cases hpending : ∃ m, s.pending m = true
    · rw [evalStep_of_pending hpending]
      obtain ⟨m, hm⟩ := hpending
      exact .inl ⟨rfl, fun _ => ⟨m, ((sameMotors_issueTick s).pending m).trans hm⟩⟩
    · rw [evalStep_of_no_pending (by simpa using hpending)]
      exact .inl (running_of_fsm rfl (by simp [startHolding]))
  | emit =>
    rw [engineStep]
    cases ha : p.ack
    · rw [emitStep_of_silent hp ha]
      exact .inl hr
    · rw [emitStep_of_ack hp ha]
      exact .inl (running_of_fsm rfl (by simp))
  | sleep =>
    rw [engineStep, sleepStep]
    split
    · exact .inl ⟨hr.busy, hr.tick⟩
    · exact .inl (running_of_fsm rfl (by simp))
  | final =>
    rw [engineStep]
    cases ha : p.ack
    · rw [finalStep_of_silent hp ha]
      exact .inl hr
    · rw [finalStep_of_ack hp ha]
      exact .inr (h.ended_of_final hf)
  | runb =>
    rw [engineStep]
    rcases runbStep_fsm hf hp with ht | ht <;> exact .inl (running_of_fsm (by simp [State.busy, ht]) (by simp [ht]))

/-- The state u stands on a run from s, or after it. -/
structure OnRun (s u : State) : Prop where
  inv : Invariant u
  drives : SameDrives s u
  parked : ∀ m, s.registered m = false → u.posOf m = s.posOf m
  status : Running u ∨ Ended u

theorem OnRun.start {s : State} (h : Invariant s) (hr : Running s) : OnRun s s := ⟨h, .refl s, fun _ _ => rfl, .inl hr⟩

theorem OnRun.of_sameBlock {s u t : State} (h : OnRun s u) (hb : SameBlock u t) : OnRun s t where
  inv := hb.invariant h.inv
  drives := h.drives.trans hb.sameMotors.sameDrives
  parked m hm := (hb.sameMotors.posOf m).trans (h.parked m hm)
  status := h.status.imp hb.running hb.ended

theorem OnRun.after_engineStep {s u : State} (h : OnRun s u) {p : Pins} (hp : p.err = false) :
    OnRun s (engineStep u.fsm p u) where
  inv := h.inv.after_engineStep p
  drives := h.drives.trans (sameDrives_engineStep ..)
  parked m hm := by
    obtain ⟨-, hkeep | ⟨hpending, -⟩⟩ := h.inv.keepsOrSteps_engineStep p m
    · exact hkeep.trans (h.parked m hm)
    · rw [← h.drives.registered, registered_of_pending hpending] at hm
      cases hm
  status := by
    rcases h.status with hr | he
    · exact hr.after_engineStep h.inv hp
    · rw [he.fsm]
      exact .inr he

/-! ## The run of several edges -/

/-- No reset and no failed emit comes, and the host at most reads. -/
structure Unfailing (s : State) : Prop extends Polled s where
  err : ∀ p ∈ s.pins, p.err = false

theorem unfailing_of_fair {s : State} (hp : ∀ p ∈ s.pins, fair p) (hh : onlyReads s.host) : Unfailing s :=
  ⟨⟨fun p hmem => (hp p hmem).1, hh⟩, fun p hmem => (hp p hmem).2⟩

theorem Unfailing.pin_err {s : State} (h : Unfailing s) : s.pin.err = false := by
  unfold State.pin
  cases hp : s.pins with
  | nil => rfl
  | cons p rest => exact h.err p (by simp [hp])

theorem Unfailing.step {s : State} (h : Unfailing s) : ∃ t, Machine.step s = .next t ∧ Unfailing t ∧
    t.pins = s.pins.tail ∧ SameBlock (engineStep s.fsm s.pin s) t := by
  obtain ⟨t, hstep, hpolled, hpins, same⟩ := h.toPolled.step rfl rfl
  exact ⟨t, hstep, ⟨hpolled, fun p hp => h.err p (List.mem_of_mem_tail (hpins ▸ hp))⟩, hpins, same⟩

theorem OnRun.step {s u : State} (h : OnRun s u) (hu : Unfailing u) :
    ∃ t, Machine.step u = .next t ∧ Unfailing t ∧ OnRun s t := by
  obtain ⟨t, hstep, ht, -, same⟩ := hu.step
  exact ⟨t, hstep, ht, (h.after_engineStep hu.pin_err).of_sameBlock same⟩

theorem OnRun.run {s u t : State} {n : Nat} (h : OnRun s u) (hu : Unfailing u)
    (hrun : Sys2Proof.core.run n u = .next t) : OnRun s t := by
  induction n generalizing u with
  | zero =>
    cases hrun
    exact h
  | succ n ih =>
    obtain ⟨v, hstep, hv, hon⟩ := h.step hu
    rw [run_succ hstep] at hrun
    exact ih hon hv hrun

/-! ## Both disciplines (R220) -/

/-- A RUN from a state at rest keeps the invariant (R195). -/
theorem Invariant.after_runStarted {s : State} (h : Invariant s) (hf : s.fsm = .idle) (d : Discipline) :
    Invariant (runStarted d s) := by
  have hsleep := h.sleepCnt_eq_zero (by simp [hf])
  have hquiet := h.quiet_of_workersRest (by simp [hf]) (by simp [hf])
  have hw := h.workersRest (by simp [hf])
  cases d with
  | a =>
    exact invariant_of_quiet (h.legalMotors.congr rfl rfl) (.of_awake (by simp [runStarted]) hsleep h.width h.pointers)
      hquiet (fun _ => hw) (by simp [runStarted]) (by simp [runStarted])
  | b =>
    exact invariant_of_quiet (h.legalMotors.congr rfl rfl)
      (.of_awake (by simp [runStarted]) hsleep h.width ⟨isSlot_zero h.cfg, h.pointers.2⟩)
      hquiet (fun _ => hw) (by simp [runStarted]) (by simp [runStarted])

theorem running_runStarted (d : Discipline) (s : State) : Running (runStarted d s) := by
  cases d <;> exact running_of_fsm rfl (by simp [runStarted])

theorem sameMotors_runStarted (d : Discipline) (s : State) : SameMotors s (runStarted d s) := by
  cases d <;> exact sameMotors_of_slots rfl rfl

/-- Where an ended run left every slot, and its word, from the state the run started in (R205, R220). -/
structure EndsAtTargets (s t : State) : Prop where
  done : t.done = true
  pos : ∀ m, (t.slot m).pos = if s.registered m then (s.slot m).tgt else (s.slot m).pos
  out : t.out = s.compose s.tgtOf

theorem OnRun.endsAtTargets {s t : State} (h : OnRun s t) (he : Ended t) : EndsAtTargets s t where
  done := he.done
  pos m := by
    cases hm : s.registered m
    · exact BitVec.eq_of_toInt_eq (h.parked m hm)
    · exact (he.target m ((h.drives.registered m).trans hm)).trans (h.drives.slot m).tgt
  out := by rw [he.out, h.drives.compose, funext h.drives.tgtOf]

/-- A finished run of either discipline ends at the targets of the idle state it started from. -/
theorem endsAtTargets_of_runStarted {s t : State} (h : Invariant s) (hf : s.fsm = .idle) (d : Discipline)
    {pins : List Pins} {host : List BusCycle} (hp : ∀ p ∈ pins, fair p) (hh : onlyReads host) {n : Nat}
    (hrun : Sys2Proof.core.run n { runStarted d s with pins := pins, host := host } = .next t) (ht : t.fsm = .idle) :
    EndsAtTargets s t := by
  have hblock : SameBlock (runStarted d s) { runStarted d s with pins := pins, host := host } :=
    ⟨rfl, rfl, rfl, rfl, rfl, rfl, rfl, rfl, rfl, rfl⟩
  have hstart : OnRun (runStarted d s) { runStarted d s with pins := pins, host := host } :=
    (OnRun.start (h.after_runStarted hf d) (running_runStarted d s)).of_sameBlock hblock
  have hon := hstart.run (unfailing_of_fair hp hh) hrun
  have hended : Ended t := hon.status.resolve_left fun hr => by simpa [State.busy, ht] using hr.busy
  obtain ⟨hdone, hpos, hout⟩ := hon.endsAtTargets hended
  have same := sameMotors_runStarted d s
  refine ⟨hdone, fun m => ?_, ?_⟩
  · rw [hpos, same.registered, same.tgt, same.pos]
  · rw [hout, same.compose, funext same.tgtOf]

/-- Settles O38: either run ends at the targets of the common start (`endsAtTargets_of_runStarted`). -/
theorem bothDisciplinesEndAlike : Obligations.BothDisciplinesEndAlike := by
  intro s ta tb pa pb ha hb na nb h hf hha hhb hpa hpb hruna hta hrunb htb
  obtain ⟨hdonea, hposa, houta⟩ := endsAtTargets_of_runStarted h hf .a hpa hha hruna hta
  obtain ⟨hdoneb, hposb, houtb⟩ := endsAtTargets_of_runStarted h hf .b hpb hhb hrunb htb
  exact ⟨hdonea, hdoneb, fun m => (hposa m).trans (hposb m).symm, houta.trans houtb.symm, houta⟩

end Sys2Proof.Machine

/-! PROOFS. A run whose latch answers comes to its end (spec/42_scheduler.md R198, R205, R210, R218; R301). The measure
is what the run has still to do (`State.work`, `State.overhead`): every edge without an emit in flight lessens it, and the
acknowledge of a step lessens it by more than the sleep it starts and the latency of the next emit add. -/

namespace Sys2Proof.Machine

open Sys2Proof.Claims

/-! ## The work left in a slot -/

/-- A bound on the transitions a worker makes, waiting for grants and answers apart, before it rests or its next emit
starts; `p` says whether its motor is pending. -/
def Slot.wait (x : Slot) (p : Bool) : Nat :=
  match x.w with
  | .idle => if p then 2 else 0
  | .req => 1
  | .emit => 0
  | .sleep => x.wcnt.toNat + 2

/-- A bound on what a committed step adds to the edges to come: its sleep, of a 32-bit count, and the latency of the
next emit. -/
def stepCost (L : Nat) : Nat := 2 ^ 32 + L + 1

/-- The steps slot m is away from its target, each at its cost, and the wait of its worker. -/
def State.slotWork (L : Nat) (s : State) (m : SlotIx) : Nat :=
  (s.tgtOf m - s.posOf m).natAbs * stepCost L + (s.slot m).wait (s.pending m)

/-- The work left in all slots. -/
def State.work (L : Nat) (s : State) : Nat := ∑ m : SlotIx, s.slotWork L m

/-- The edges left outside the slots before the next emit: the decision of EVAL or of RUNB's end, and the sleep. -/
def State.overhead (s : State) : Nat :=
  match s.fsm with
  | .eval | .runb => 1
  | .sleep => s.sleepCnt.toNat + 1
  | .idle | .emit | .final | .patch => 0

theorem overhead_congr {s t : State} (hf : t.fsm = s.fsm) (hc : t.sleepCnt = s.sleepCnt) : t.overhead = s.overhead := by
  simp only [State.overhead, hf, hc]

/-- A bound on the work that holds in every slot, and in one slot with an offset, holds of the sum with the offset. -/
theorem work_add_le_work_add {s t : State} {L a b : Nat} {k : SlotIx}
    (hk : t.slotWork L k + a ≤ s.slotWork L k + b) (h : ∀ m, m ≠ k → t.slotWork L m ≤ s.slotWork L m) :
    t.work L + a ≤ s.work L + b := by
  have hrest : ∑ m ∈ Finset.univ.erase k, t.slotWork L m ≤ ∑ m ∈ Finset.univ.erase k, s.slotWork L m :=
    Finset.sum_le_sum fun m hm => h m (Finset.ne_of_mem_erase hm)
  rw [State.work, State.work, ← Finset.add_sum_erase _ (t.slotWork L) (Finset.mem_univ k),
    ← Finset.add_sum_erase _ (s.slotWork L) (Finset.mem_univ k)]
  omega

theorem Slot.wait_le {x y : Slot} (hw : y.w = x.w) (hc : y.wcnt = x.wcnt) {p q : Bool} (hp : q = true → p = true) :
    y.wait q ≤ x.wait p := by
  unfold Slot.wait
  rw [hw, hc]
  cases x.w with
  | idle => cases q <;> simp_all
  | req | emit | sleep => exact Nat.le_refl _

/-- The work of a slot reads its position, target, worker and pending test. -/
theorem slotWork_congr {s t : State} (h : SameMotors s t) {m : SlotIx} (hw : (t.slot m).w = (s.slot m).w)
    (hc : (t.slot m).wcnt = (s.slot m).wcnt) (L : Nat) : t.slotWork L m = s.slotWork L m := by
  simp [State.slotWork, Slot.wait, h.tgtOf, h.posOf, h.pending, hw, hc]

theorem work_congr {s t : State} (hc : t.cfg = s.cfg) (hs : t.slots = s.slots) (L : Nat) : t.work L = s.work L :=
  Finset.sum_congr rfl fun m _ =>
    slotWork_congr (sameMotors_of_slots hc hs) (by rw [slot_congr hs]) (by rw [slot_congr hs]) L

/-- The next step of a pending motor brings it one step nearer to its target (R172). -/
theorem distance_steppedPos {s : State} {m : SlotIx} (h : s.pending m = true) :
    (s.tgtOf m - s.steppedPos m).natAbs + 1 = (s.tgtOf m - s.posOf m).natAbs := by
  rcases steppedPos_of_pending h with ⟨hlt, hstep⟩ | ⟨hlt, hstep⟩ <;> rw [hstep] <;> omega

/-- A committed step takes its cost off the work of its slot. -/
theorem slotWork_of_step {s t : State} {m : SlotIx} (hp : s.pending m = true) (hpos : t.posOf m = s.steppedPos m)
    (htgt : t.tgtOf m = s.tgtOf m) {a : Nat} (hwait : (t.slot m).wait (t.pending m) ≤ (s.slot m).wait (s.pending m) + a)
    (L : Nat) : t.slotWork L m + stepCost L ≤ s.slotWork L m + a := by
  rw [State.slotWork, State.slotWork, hpos, htgt, ← distance_steppedPos hp, Nat.add_mul, Nat.one_mul]
  omega

/-! ## A worker's transition without an answer -/

/-- It shortens the worker's wait, or the worker is at rest, waits for a grant, or waits for an answer. -/
theorem wait_workerStep (s : State) (g : Option SlotIx) (m : SlotIx) (x : Slot) :
    (workerStep s false g m x).wait (s.pending m) < x.wait (s.pending m) ∨
      workerStep s false g m x = x ∧ (x.w = .idle ∧ s.pending m = false ∨
        x.w = .req ∧ s.pending m = true ∧ g ≠ some m ∨ x.w = .emit) := by
  cases hw : x.w with
  | idle =>
    rw [workerStep_of_idle hw]
    cases hp : s.pending m
    · exact .inr ⟨with_worker_self hw, .inl ⟨rfl, rfl⟩⟩
    · exact .inl (by simp [Slot.wait, hw])
  | req =>
    cases hp : s.pending m
    · exact .inl (by rw [workerStep_of_withdrawn hw hp]; simp [Slot.wait, hw])
    · by_cases hg : g = some m
      · exact .inl (by rw [workerStep_of_granted hw hp hg]; simp [Slot.wait, hw])
      · exact .inr ⟨workerStep_of_waiting hw hp hg, .inr (.inl ⟨rfl, rfl, hg⟩)⟩
  | emit => exact .inr ⟨workerStep_of_unanswered hw, .inr (.inr rfl)⟩
  | sleep =>
    by_cases hc : 1 < x.wcnt.toNat
    · rw [workerStep_of_asleep hw hc]
      refine .inl ?_
      simp only [Slot.wait, hw, toNat_sub_one hc]
      omega
    · rw [workerStep_of_waking hw (Nat.le_of_not_lt hc)]
      cases s.pending m <;> exact .inl (by simp [Slot.wait, hw])

theorem wait_workerStep_le (s : State) (g : Option SlotIx) (m : SlotIx) (x : Slot) :
    (workerStep s false g m x).wait (s.pending m) ≤ x.wait (s.pending m) := by
  rcases wait_workerStep s g m x with hlt | ⟨heq, -⟩
  · exact Nat.le_of_lt hlt
  · rw [heq]

/-- The work of a slot after such an edge. -/
theorem slotWork_workersStep {s t : State} (hc : t.cfg = s.cfg) (hs : t.slots = s.slots) (g : Option SlotIx)
    (m : SlotIx) (L : Nat) : (workersStep s false g t).slotWork L m =
      (s.tgtOf m - s.posOf m).natAbs * stepCost L +
        (if s.isSlot m then workerStep s false g m (s.slot m) else s.slot m).wait (s.pending m) := by
  have same : SameMotors s (workersStep s false g t) := (sameMotors_of_slots hc hs).trans (sameMotors_workersStep ..)
  rw [State.slotWork, same.tgtOf, same.posOf, same.pending, slot_workersStep, slot_congr hs,
    (sameMotors_of_slots hc hs).isSlot]

theorem slotWork_workersStep_le {s t : State} (hc : t.cfg = s.cfg) (hs : t.slots = s.slots) (g : Option SlotIx)
    (m : SlotIx) (L : Nat) : (workersStep s false g t).slotWork L m ≤ s.slotWork L m := by
  rw [slotWork_workersStep hc hs, State.slotWork]
  refine Nat.add_le_add_left ?_ _
  split
  · exact wait_workerStep_le s g m _
  · exact Nat.le_refl _

/-- An edge without an answer that some existing worker uses lessens the work. -/
theorem work_workersStep_lt {s t : State} (hc : t.cfg = s.cfg) (hs : t.slots = s.slots) {g : Option SlotIx}
    {m : SlotIx} (hm : s.isSlot m = true)
    (hlt : (workerStep s false g m (s.slot m)).wait (s.pending m) < (s.slot m).wait (s.pending m)) (L : Nat) :
    (workersStep s false g t).work L < s.work L := by
  have hslot : (workersStep s false g t).slotWork L m + 1 ≤ s.slotWork L m + 0 := by
    rw [slotWork_workersStep hc hs, if_pos hm, State.slotWork]
    omega
  have hwork := work_add_le_work_add hslot fun j _ => slotWork_workersStep_le hc hs g j L
  omega

/-! ## What one edge does to the work -/

section Edge

variable {s : State} {p : Pins} (L : Nat)

theorem work_evalStep : (evalStep s).work L = s.work L := by
  have same := sameMotors_evalStep s
  refine Finset.sum_congr rfl fun m _ => ?_
  have hworker : ((evalStep s).slot m).w = (s.slot m).w ∧ ((evalStep s).slot m).wcnt = (s.slot m).wcnt := by
    unfold evalStep
    split
    · rw [slot_issueTick]
      split <;> exact ⟨rfl, rfl⟩
    · rw [slot_clearAdv]
      split <;> exact ⟨rfl, rfl⟩
  exact slotWork_congr same hworker.1 hworker.2 L

theorem overhead_evalStep : (evalStep s).overhead = 0 := by
  unfold evalStep
  split <;> simp [State.overhead, issueTick, startHolding]

theorem overhead_sleepStep (h : Invariant s) (hf : s.fsm = .sleep) : (sleepStep s).overhead < s.overhead := by
  have hc : 1 ≤ s.sleepCnt.toNat ∧ s.sleepCnt.toNat ≤ s.sleepLen.toNat := by simpa [hf] using h.timer
  unfold sleepStep
  split
  case isTrue hlt =>
    simp only [State.overhead, hf, toNat_sub_one hlt]
    omega
  case isFalse =>
    simp only [State.overhead, hf]
    omega

/-- With no emit in flight an unfinished run of Discipline B has a worker to serve: the granted one, or one that sleeps,
withdraws or begins to wait (R211 to R216). -/
theorem work_runbStep_lt (hn : s.emittingWorker = none) (hu : s.unfinished) : (runbStep p s).work L < s.work L := by
  cases hg : s.arbiterChoice with
  | some g =>
    have hcandidate := (candidate_iff s g).1 (arbiterChoice_some hg).1
    rw [runbStep_of_choice hn hg]
    refine work_workersStep_lt rfl rfl (isSlot_of_pending hcandidate.1) ?_ L
    rcases wait_workerStep s (some g) g (s.slot g) with hlt | ⟨-, ⟨hidle, -⟩ | ⟨-, -, hne⟩ | hemit⟩
    · exact hlt
    · cases hidle.symm.trans hcandidate.2
    · exact absurd rfl hne
    · cases hemit.symm.trans hcandidate.2
  | none =>
    obtain ⟨m, hm⟩ := hu
    have hslot : s.isSlot m = true := hm.elim isSlot_of_pending And.left
    rw [runbStep_of_no_choice hn ⟨m, hm⟩ hg]
    refine work_workersStep_lt rfl rfl hslot ?_ L
    rcases wait_workerStep s none m (s.slot m) with hlt | ⟨-, ⟨hidle, hp⟩ | ⟨hreq, hp, -⟩ | hemit⟩
    · exact hlt
    · rcases hm with hm | ⟨-, hm⟩
      · cases hp.symm.trans hm
      · exact absurd hidle hm
    · exact absurd ((candidate_iff s m).2 ⟨hp, hreq⟩) (by simp [arbiterChoice_none hg m])
    · exact absurd hemit (emittingWorker_none hn m hslot)

/-- The work and the overhead: a bound on the edges of a run but for those spent waiting for an answer. -/
def State.measure (L : Nat) (s : State) : Nat := s.work L + s.overhead

/-- An edge of a run without an emit in flight lessens the measure. -/
theorem measure_of_not_emitting (h : Invariant s) (hb : s.busy = true) (he : s.emitting = false)
    (hp : p.err = false) : (engineStep s.fsm p s).measure L < s.measure L := by
  unfold State.measure
  cases hf : s.fsm with
  | idle | patch => simp [State.busy, hf] at hb
  | emit | final => simp [State.emitting, hf] at he
  | eval =>
    have hone : s.overhead = 1 := by simp [State.overhead, hf]
    rw [engineStep, work_evalStep, overhead_evalStep, hone]
    omega
  | sleep =>
    have hwork : (sleepStep s).work L = s.work L := by
      unfold sleepStep
      split <;> exact work_congr rfl rfl L
    rw [engineStep, hwork]
    exact Nat.add_lt_add_left (overhead_sleepStep h hf) _
  | runb =>
    have hone : s.overhead = 1 := by simp [State.overhead, hf]
    have hn : s.emittingWorker = none := by simpa [emitting_of_runb hf] using he
    rw [engineStep, hone]
    by_cases hu : s.unfinished
    · have hwork := work_runbStep_lt (p := p) L hn hu
      have hover : (runbStep p s).overhead ≤ 1 := by
        rcases runbStep_fsm hf hp with ht | ht <;> simp [State.overhead, ht]
      omega
    · obtain ⟨hpending, hw⟩ := not_unfinished_iff.1 hu
      have hwork : (startHolding s).work L = s.work L := work_congr rfl rfl L
      rw [runbStep_of_finished hw hpending, hwork, show (startHolding s).overhead = 0 from rfl]
      omega

/-- An edge without an answer keeps the emit in flight and does not raise the measure. -/
theorem measure_of_silent (hb : s.busy = true) (he : s.emitting = true) (hp : p.err = false) (ha : p.ack = false) :
    (engineStep s.fsm p s).emitting = true ∧ (engineStep s.fsm p s).measure L ≤ s.measure L := by
  cases hf : s.fsm with
  | idle | patch => simp [State.busy, hf] at hb
  | eval | sleep => simp [State.emitting, hf] at he
  | emit =>
    rw [engineStep, emitStep_of_silent hp ha]
    exact ⟨he, Nat.le_refl _⟩
  | final =>
    rw [engineStep, finalStep_of_silent hp ha]
    exact ⟨he, Nat.le_refl _⟩
  | runb =>
    obtain ⟨e, hemit⟩ := Option.isSome_iff_exists.1 ((emitting_of_runb hf).symm.trans he)
    obtain ⟨hslot, hw⟩ := emittingWorker_some hemit
    have hstay : ((workersStep s false none s).slot e).w = .emit := by
      rw [slot_workersStep, if_pos hslot, workerStep_of_unanswered hw, hw]
    obtain ⟨k, hk⟩ := exists_emittingWorker (((sameMotors_workersStep s s none).isSlot e).trans hslot) hstay
    have hwork : (workersStep s false none s).work L ≤ s.work L :=
      Finset.sum_le_sum fun m _ => slotWork_workersStep_le rfl rfl none m L
    have hover := overhead_congr (workersStep_fsm s s false none) (workersStep_sleepCnt s s false none)
    rw [engineStep, runbStep_of_silent hemit hp ha]
    have htf : (workersStep s false none s).fsm = .runb := (workersStep_fsm ..).trans hf
    exact ⟨by rw [emitting_of_runb htf, hk]; rfl, by unfold State.measure; omega⟩

/-- The commit of a tick takes the cost of a step off every pending slot (R201). -/
theorem Invariant.slotWork_commitTick (h : Invariant s) (hf : s.fsm = .emit) {t : State} (hc : t.cfg = s.cfg)
    (hs : t.slots = s.slots) (m : SlotIx) :
    (s.pending m = true → (commitTick t).slotWork L m + stepCost L ≤ s.slotWork L m) ∧
      (commitTick t).slotWork L m ≤ s.slotWork L m := by
  have hpos := h.posOf_commitTick hf hc hs m
  have htgt := (h.keepsOrSteps_commitTick hf m hc hs).tgtOf
  have drives : SameDrives s (commitTick t) := sameDrives_mapSlots hc hs fun _ x => by
    cases x.adv <;> exact ⟨rfl, rfl, rfl, rfl, rfl⟩
  have hpending (hp : (commitTick t).pending m = true) : s.pending m = true := by
    by_contra hno
    have hm := (drives.registered m).symm.trans (registered_of_pending hp)
    have hat := pos_eq_tgt_of_not_pending (Bool.eq_false_iff.2 hno) hm
    refine posOf_ne_tgtOf hp ?_
    rw [hpos, htgt, State.tickPos, if_neg hno]
    exact congrArg BitVec.toInt hat
  have hworker : ((commitTick t).slot m).w = (s.slot m).w ∧ ((commitTick t).slot m).wcnt = (s.slot m).wcnt := by
    rw [slot_commitTick, slot_congr hs]
    split
    · cases (s.slot m).adv <;> exact ⟨rfl, rfl⟩
    · exact ⟨rfl, rfl⟩
  have hwait := Slot.wait_le hworker.1 hworker.2 hpending
  have hstep (hp : s.pending m = true) : (commitTick t).slotWork L m + stepCost L ≤ s.slotWork L m :=
    slotWork_of_step hp (by rw [hpos, State.tickPos, if_pos hp]) htgt (a := 0) hwait L
  refine ⟨hstep, ?_⟩
  cases hp : s.pending m
  · rw [State.slotWork, State.slotWork, hpos, htgt, State.tickPos, hp]
    rw [hp] at hwait
    exact Nat.add_le_add_left hwait _
  · exact Nat.le_of_add_right_le (hstep hp)

/-- The acknowledge of a tick's emit takes more off the work than the sleep adds. -/
theorem Invariant.measure_commitTick (h : Invariant s) (hf : s.fsm = .emit) (hm : ∃ m, s.pending m = true) :
    (commitTick { ackEmit s with sleepCnt := s.sleepLen, fsm := .sleep }).measure L + L ≤ s.measure L := by
  obtain ⟨m, hm⟩ := hm
  have hslot := h.slotWork_commitTick L hf (t := { ackEmit s with sleepCnt := s.sleepLen, fsm := .sleep }) rfl rfl
  have hwork := work_add_le_work_add (b := 0) ((hslot m).1 hm) fun j _ => (hslot j).2
  have hover : (commitTick { ackEmit s with sleepCnt := s.sleepLen, fsm := .sleep }).overhead =
      s.sleepLen.toNat + 1 := rfl
  have hlt := s.sleepLen.isLt
  unfold State.measure
  unfold stepCost at hwork
  omega

/-- The acknowledge of a worker's emit takes more off its slot than its sleep adds (R213). -/
theorem Invariant.work_acknowledged (h : Invariant s) {e : SlotIx} (he : s.emittingWorker = some e) :
    (workersStep s true none (ackEmit s)).work L + L ≤ s.work L := by
  obtain ⟨hslot, hw⟩ := emittingWorker_some he
  obtain ⟨hp, hd⟩ := h.workerDir e hw
  have hcommit : (workersStep s true none (ackEmit s)).slot e =
      { (s.slot e).commitStep with w := .sleep, wcnt := (s.slot e).delay } := by
    have hack : (ackEmit s).isSlot e = true := hslot
    rw [slot_workersStep, slot_ackEmit, if_pos hack, workerStep_of_acknowledged hw]
  have hother (m : SlotIx) (hm : m ≠ e) :
      (workersStep s true none (ackEmit s)).slotWork L m ≤ s.slotWork L m := by
    have hne : (s.slot m).w ≠ .emit := fun hwm => hm ((h.oneEmit m hwm).symm.trans (h.oneEmit e hw))
    have hsame : (workersStep s true none (ackEmit s)).slot m = (workersStep s false none s).slot m := by
      rw [slot_workersStep, slot_workersStep, slot_ackEmit, workerStep_of_not_emit hne]
      rfl
    have hwork : (workersStep s true none (ackEmit s)).slotWork L m = (workersStep s false none s).slotWork L m := by
      simp only [State.slotWork, State.tgtOf, State.posOf, State.pending, State.registered, hsame]
      rfl
    rw [hwork]
    exact slotWork_workersStep_le rfl rfl none m L
  have hwait : ((workersStep s true none (ackEmit s)).slot e).wait
      ((workersStep s true none (ackEmit s)).pending e) ≤ (s.slot e).wait (s.pending e) + (2 ^ 32 + 1) := by
    have hlt := (s.slot e).delay.isLt
    rw [hcommit]
    simp only [Slot.wait]
    omega
  have hstep := slotWork_of_step hp (t := workersStep s true none (ackEmit s))
    ((congrArg (fun x : Slot => x.pos.toInt) hcommit).trans (commitStep_pos hp _ rfl hd))
    ((h.keepsOrSteps_workersStep true none e (t := ackEmit s) rfl).tgtOf) hwait L
  have hwork := work_add_le_work_add hstep hother
  unfold stepCost at hwork
  omega

/-- The acknowledge of an emit leaves none in flight, and pays for the latency of the next one. -/
theorem Running.measure_of_ack (hr : Running s) (h : Invariant s) (he : s.emitting = true) (hp : p.err = false)
    (ha : p.ack = true) : (engineStep s.fsm p s).emitting = false ∧
      ((engineStep s.fsm p s).busy = true → (engineStep s.fsm p s).measure L + L ≤ s.measure L) := by
  cases hf : s.fsm with
  | idle | patch => simpa [State.busy, hf] using hr.busy
  | eval | sleep => simp [State.emitting, hf] at he
  | emit =>
    rw [engineStep, emitStep_of_ack hp ha]
    exact ⟨rfl, fun _ => h.measure_commitTick L hf (hr.tick hf)⟩
  | final =>
    rw [engineStep, finalStep_of_ack hp ha]
    exact ⟨rfl, fun hb => by cases hb⟩
  | runb =>
    obtain ⟨e, hemit⟩ := Option.isSome_iff_exists.1 ((emitting_of_runb hf).symm.trans he)
    rw [engineStep, runbStep_of_ack hemit hp ha]
    have hnone : (workersStep s true none (ackEmit s)).emittingWorker = none := by
      refine emittingWorker_eq_none fun m _ hm => ?_
      rcases h.emit_of_workersStep rfl rfl hm with ⟨-, hack, -⟩ | ⟨-, hg, -⟩
      · cases hack
      · cases hg
    have hwork := h.work_acknowledged L hemit
    have hover : (workersStep s true none (ackEmit s)).overhead = s.overhead := overhead_congr (by simp) (by simp)
    have htf : (workersStep s true none (ackEmit s)).fsm = .runb := (workersStep_fsm ..).trans hf
    exact ⟨by rw [emitting_of_runb htf, hnone]; rfl, fun _ => by unfold State.measure; omega⟩

end Edge

/-! ## The whole run -/

theorem SameBlock.measure {s t : State} (h : SameBlock s t) (L : Nat) : t.measure L = s.measure L := by
  rw [State.measure, State.measure, work_congr h.cfg h.slots, overhead_congr h.fsm h.sleepCnt]

theorem SameBlock.emitting {s t : State} (h : SameBlock s t) : t.emitting = s.emitting :=
  emitting_congr h.fsm h.cfg fun m => by rw [h.slot]

theorem SameBlock.busy {s t : State} (h : SameBlock s t) : t.busy = s.busy := by simp only [State.busy, h.fsm]

theorem run_next (n : Nat) (s : State) : ∃ t, Sys2Proof.core.run n s = .next t := by
  induction n generalizing s with
  | zero => exact ⟨s, run_zero s⟩
  | succ n ih =>
    obtain ⟨u, hu⟩ := step_next s
    rw [run_succ hu]
    exact ih u

/-- A run that has ended stays ended while the host at most reads. -/
theorem Ended.run {u t : State} {n : Nat} (h : Ended u) (hu : Unfailing u)
    (hrun : Sys2Proof.core.run n u = .next t) : Ended t := by
  induction n generalizing u with
  | zero =>
    cases hrun
    exact h
  | succ n ih =>
    obtain ⟨v, hstep, hv, -, same⟩ := hu.step
    rw [h.fsm] at same
    rw [run_succ hstep] at hrun
    exact ih (same.ended h) hv hrun

/-- What the latch promises of a run it promises of the run after its first edge. -/
theorem answersWithin_step {L : Nat} {s t : State} (h : answersWithin L s) (hne : s.pins ≠ [])
    (ht : step s = .next t) (hp : t.pins = s.pins.tail) : answersWithin L t := by
  obtain ⟨p, rest, hpins⟩ := List.exists_cons_of_ne_nil hne
  rw [hpins, List.tail_cons] at hp
  refine ⟨fun q hq => h.1 q (by rw [hpins]; exact List.mem_cons_of_mem p (hp ▸ hq)), fun k u hk hrun he => ?_⟩
  have hanswer := h.2 (k + 1) u (by rw [hpins, List.length_cons, ← hp]; omega) ((run_succ ht k).trans hrun) he
  rwa [hpins, List.drop_succ_cons, ← hp] at hanswer

/-- The latency the run may still have to wait for: W edges for an emit in flight, and L for the next one. -/
structure Awaits (L W : Nat) (s : State) : Prop where
  flight : s.emitting = true → ∃ p ∈ s.pins.take W, p.ack = true
  rest : s.emitting = false → W = L

theorem Awaits.pos {L W : Nat} {s : State} (h : Awaits L W s) (he : s.emitting = true) : 1 ≤ W := by
  obtain ⟨p, hmem, -⟩ := h.flight he
  cases W with
  | zero => simp at hmem
  | succ V => omega

/-- With L edges to come, the latch's promise bounds the wait by L. -/
theorem awaits_of_answersWithin {L : Nat} {s : State} (h : answersWithin L s) (hlen : L ≤ s.pins.length) :
    Awaits L L s :=
  ⟨fun he => h.2 0 s (by omega) (run_zero s) he, fun _ => rfl⟩

/-- An emit whose answer does not come at this edge has one edge less to wait. -/
theorem awaits_of_silent {L W : Nat} {s t : State} (h : Awaits L W s) (he : s.emitting = true)
    (hack : s.pin.ack = false) (hp : t.pins = s.pins.tail) (het : t.emitting = true) :
    ∃ V, W = V + 1 ∧ Awaits L V t := by
  obtain ⟨p, hmem, hp1⟩ := h.flight he
  cases hpins : s.pins with
  | nil => simp [hpins] at hmem
  | cons q rest =>
    cases W with
    | zero => simp at hmem
    | succ V =>
      rw [hpins, List.take_succ_cons, List.mem_cons] at hmem
      rw [State.pin, hpins] at hack
      have hrest : p ∈ rest.take V := hmem.resolve_left fun heq => by
        rw [heq] at hp1
        exact Bool.false_ne_true (hack.symm.trans hp1)
      rw [hpins, List.tail_cons] at hp
      exact ⟨V, rfl, fun _ => ⟨p, hp ▸ hrest, hp1⟩, fun hno => absurd (hno.symm.trans het) Bool.false_ne_true⟩

/-- A run that goes on has an edge to come. -/
theorem bound_pos {L W : Nat} {u : State} (h : Invariant u) (hr : Running u) (hw : Awaits L W u) :
    1 ≤ u.measure L + W := by
  cases he : u.emitting
  · have hlt := measure_of_not_emitting L h hr.busy he (p := .quiet) rfl
    omega
  · have hpos := hw.pos he
    omega

/-- One edge of a run lessens its bound, the measure with the latency to wait for, or ends the run. -/
theorem OnRun.bound_step {s u : State} {L W : Nat} (h : OnRun s u) (hr : Running u) (hu : Unfailing u)
    (ha : answersWithin L u) (hw : Awaits L W u) (hlen : u.measure L + W ≤ u.pins.length) :
    ∃ t, Machine.step u = .next t ∧ Unfailing t ∧ OnRun s t ∧ (Ended t ∨ Running t ∧ answersWithin L t ∧
      t.pins.length + 1 = u.pins.length ∧ ∃ V, Awaits L V t ∧ t.measure L + V < u.measure L + W) := by
  obtain ⟨t, hstep, ht, hpins, same⟩ := hu.step
  have hon := (h.after_engineStep hu.pin_err).of_sameBlock same
  refine ⟨t, hstep, ht, hon, hon.status.symm.imp_right fun hrt => ?_⟩
  have hpos := bound_pos h.inv hr hw
  have hne : u.pins ≠ [] := fun h0 => by simp [h0] at hlen; omega
  have hlent : t.pins.length + 1 = u.pins.length := by
    rw [hpins, List.length_tail]
    omega
  have hat := answersWithin_step ha hne hstep hpins
  refine ⟨hrt, hat, hlent, ?_⟩
  cases he : u.emitting
  · have hlt := measure_of_not_emitting L h.inv hr.busy he hu.pin_err
    rw [← same.measure] at hlt
    have hWL := hw.rest he
    exact ⟨L, awaits_of_answersWithin hat (by omega), by omega⟩
  · cases hack : u.pin.ack
    · obtain ⟨hemit, hle⟩ := measure_of_silent L hr.busy he hu.pin_err hack
      rw [← same.measure] at hle
      obtain ⟨V, hWV, hV⟩ := awaits_of_silent hw he hack hpins (same.emitting.trans hemit)
      exact ⟨V, hV, by omega⟩
    · obtain ⟨hemit, hle⟩ := hr.measure_of_ack L h.inv he hu.pin_err hack
      have hle := hle (same.busy.symm.trans hrt.busy)
      rw [← same.measure] at hle
      have hno := same.emitting.trans hemit
      have hpos := hw.pos he
      exact ⟨L, ⟨fun hyes => absurd (hno.symm.trans hyes) Bool.false_ne_true, fun _ => rfl⟩, by omega⟩

/-- A run has ended after as many edges as its bound, if the latch's promise reaches that far. -/
theorem OnRun.ended_of_bound {s u t : State} {L W n : Nat} (h : OnRun s u) (hr : Running u) (hu : Unfailing u)
    (ha : answersWithin L u) (hw : Awaits L W u) (hn : u.measure L + W ≤ n) (hlen : n ≤ u.pins.length)
    (hrun : Sys2Proof.core.run n u = .next t) : Ended t := by
  induction n generalizing u W with
  | zero =>
    have hpos := bound_pos h.inv hr hw
    omega
  | succ n ih =>
    obtain ⟨v, hstep, hv, hon, hend | ⟨hrv, hav, hlenv, V, hwv, hlt⟩⟩ := h.bound_step hr hu ha hw (hn.trans hlen)
    · exact hend.run hv ((run_succ hstep n).symm.trans hrun)
    · exact ih hon hrv hv hav hwv (by omega) (by omega) ((run_succ hstep n).symm.trans hrun)

/-- A run of either discipline, from any of its states, ends with DONE and every motor at its target. -/
theorem runConverges {s : State} (h : Invariant s) (hr : Running s) (L : Nat) :
    ∃ n : Nat, ∀ (pins : List Pins) (host : List BusCycle), n ≤ pins.length → onlyReads host →
      answersWithin L { s with pins := pins, host := host } →
      ∃ t : State, Sys2Proof.core.run n { s with pins := pins, host := host } = .next t ∧
        t.fsm = .idle ∧ t.done = true ∧
        (∀ m, s.registered m = true → (t.slot m).tgt = (s.slot m).tgt ∧ (t.slot m).pos = (s.slot m).tgt) ∧
        t.out = s.compose s.tgtOf := by
  refine ⟨s.measure L + L, fun pins host hlen hhost ha => ?_⟩
  have hblock : SameBlock s { s with pins := pins, host := host } :=
    ⟨rfl, rfl, rfl, rfl, rfl, rfl, rfl, rfl, rfl, rfl⟩
  have hstart := (OnRun.start h hr).of_sameBlock hblock
  have hu : Unfailing { s with pins := pins, host := host } := unfailing_of_fair ha.1 hhost
  obtain ⟨t, hrun⟩ := run_next (s.measure L + L) { s with pins := pins, host := host }
  have hend := hstart.ended_of_bound (hblock.running hr) hu ha
    (awaits_of_answersWithin ha ((Nat.le_add_left _ _).trans hlen)) (by rw [hblock.measure]) hlen hrun
  have hon := hstart.run hu hrun
  obtain ⟨hdone, hpos, hout⟩ := hon.endsAtTargets hend
  exact ⟨t, hrun, hend.fsm, hdone, fun m hm => ⟨(hon.drives.slot m).tgt, by rw [hpos, hm]; rfl⟩, hout⟩

/-- Settles O32: EVAL is a state of a run, and every run converges. -/
theorem disciplineARunConverges : Obligations.DisciplineARunConverges := fun _ L h hf =>
  runConverges h (running_of_fsm (by simp [State.busy, hf]) (by simp [hf])) L

/-- Settles O37: RUNB is a state of a run, and every run converges; the arbiter serves some worker at every edge without
an emit in flight (`work_runbStep_lt`), so no argument about the order of the grants is needed. -/
theorem disciplineBRunConverges : Obligations.DisciplineBRunConverges := fun _ L h hf =>
  runConverges h (running_of_fsm (by simp [State.busy, hf]) (by simp [hf])) L

end Sys2Proof.Machine

/-! PROOFS. The words of the output multiplexer bit by bit (spec/43_output.md R241, R242), WRNIB and its emit (R243,
R244), and the three answers an emit in flight can get, whoever owns it (R246 to R250, R304). -/

namespace Sys2Proof.Machine

open Sys2Proof.Claims

/-! ## The composed word and the patched word (R241, R242) -/

/-- Settles O39: a bit of the composed word is a bit of some registered motor's shifted pattern (`getLsbD_compose`),
and that pattern lies inside the motor's nibble and OUT_WIDTH. -/
theorem composedWordIsTheOrOfThePatterns : Obligations.ComposedWordIsTheOrOfThePatterns := by
  intro s P b hwf _
  simp only [getLsbD_compose, getLsbD_shifted s _ _ b hwf, Bool.and_eq_true, decide_eq_true_eq]
  constructor
  · rintro ⟨m, hm, ⟨hb, hlo, hhi⟩, hbit⟩
    exact ⟨hb, m, hm, hlo, hhi, hbit⟩
  · rintro ⟨hb, m, hm, hlo, hhi, hbit⟩
    exact ⟨m, hm, ⟨hb, hlo, hhi⟩, hbit⟩

/-- Settles O40: `getLsbD_patch` at a bit below OUT_WIDTH. -/
theorem patchedWordReplacesOneNibble : Obligations.PatchedWordReplacesOneNibble := by
  intro s g p b hwf hb
  rw [getLsbD_patch s g p b hwf, decide_eq_true hb, Bool.true_and]

/-! ## WRNIB (R243, R244) -/

theorem execWrnib_of_registered {s : State} {m : SlotIx} (hm : m.val < s.cfg.nMotors) (hb : s.busy = false)
    (hreg : (s.slot m).reg = true) :
    execWrnib m s = .next { startEmit (s.patch m (s.posOf m)) m s with fsm := .patch } := by
  rw [execWrnib, (isSlot_iff s m).2 hm, hb, hreg]
  rfl

/-- Settles O42: every check of R243 passes, so the command starts the emit. -/
theorem wrnibEmitsThePatchedWord : Obligations.WrnibEmitsThePatchedWord :=
  fun _ _ hm hb hreg => execWrnib_of_registered hm hb hreg

section Branches

variable {s : State} {p : Pins}

theorem patchStep_of_err (h : p.err = true) : patchStep p s = raiseHardwareIOError s.emot { s with fsm := .idle } :=
  if_pos h

theorem patchStep_of_ack (he : p.err = false) (ha : p.ack = true) :
    patchStep p s = { ackEmit s with fsm := .idle } := by
  simp [patchStep, he, ha]

theorem patchStep_of_silent (he : p.err = false) (ha : p.ack = false) : patchStep p s = s := by simp [patchStep, he, ha]

end Branches

/-- Settles O43: the branches of PATCH. -/
theorem wrnibEmitEndsOnItsAnswer : Obligations.WrnibEmitEndsOnItsAnswer := by
  intro s hr hq hf
  refine ⟨fun herr => ?failed, fun herr hack => ?acknowledged, fun herr hack => ?silent⟩
  case failed => exact step_of_engineStep hr hq hf (patchStep_of_err herr)
  case acknowledged => exact step_of_engineStep hr hq hf (patchStep_of_ack herr hack)
  case silent => exact step_of_engineStep hr hq hf (patchStep_of_silent herr hack)

/-! ## The answers of an emit in flight, whoever owns it (R246 to R250) -/

section Emitting

variable {s : State} {p : Pins}

/-- Who can own the emit in flight (R61). -/
theorem emitting_cases (he : s.emitting = true) :
    s.fsm = .emit ∨ s.fsm = .final ∨ s.fsm = .patch ∨ s.fsm = .runb ∧ ∃ e, s.emittingWorker = some e := by
  cases hf : s.fsm with
  | idle | eval | sleep => simp [State.emitting, hf] at he
  | emit | final | patch => simp
  | runb => simpa [emitting_of_runb hf, Option.isSome_iff_exists] using he

/-- No engine step writes EMIT_DATA while an emit is in flight (R246). -/
theorem engineStep_emitData_of_emitting (he : s.emitting = true) : (engineStep s.fsm p s).emitData = s.emitData := by
  rcases emitting_cases he with hf | hf | hf | ⟨hf, e, hw⟩ <;> rw [hf, engineStep]
  · unfold emitStep
    (repeat' split) <;> simp
  · unfold finalStep
    (repeat' split) <;> simp
  · unfold patchStep
    (repeat' split) <;> simp
  · simp only [runbStep, hw]
    (repeat' split) <;> simp [abortRun]

/-- An emit without an answer stays in flight (R301). -/
theorem emitting_of_silent (he : s.emitting = true) (hp : p.err = false) (ha : p.ack = false) :
    (engineStep s.fsm p s).emitting = true := by
  rcases emitting_cases he with hf | hf | hf | ⟨hf, -⟩
  case inr.inr.inl => rwa [hf, engineStep, patchStep_of_silent hp ha]
  all_goals exact (measure_of_silent (L := 0) (by simp [State.busy, hf]) he hp ha).1

/-- A failed emit ends in IDLE and moves no motor, whoever owned it (R202, R205, R219, R244, R249). -/
theorem engineStep_of_failed (he : s.emitting = true) (hp : p.err = true) :
    (engineStep s.fsm p s).fsm = .idle ∧ (engineStep s.fsm p s).latchKnown = false ∧
      SameMotors s (engineStep s.fsm p s) := by
  have hraise (k : SlotIx) : SameMotors s (raiseHardwareIOError k { s with fsm := .idle }) :=
    sameMotors_of_slots rfl rfl
  rcases emitting_cases he with hf | hf | hf | ⟨hf, e, hw⟩ <;> rw [hf, engineStep]
  · rw [emitStep_of_err hp]
    exact ⟨rfl, rfl, (hraise 0).trans (sameMotors_clearAdv _)⟩
  · rw [finalStep_of_err hp]
    exact ⟨rfl, rfl, hraise 0⟩
  · rw [patchStep_of_err hp]
    exact ⟨rfl, rfl, hraise s.emot⟩
  · rw [runbStep_of_err hw hp]
    exact ⟨rfl, rfl, (hraise e).trans (sameMotors_restWorkers _)⟩

/-- After the acknowledge of a worker's emit no worker is in W_EMIT: at most one was (R213), and its own edge grants
none (R215). -/
theorem Invariant.emittingWorker_of_ack (h : Invariant s) :
    (workersStep s true none (ackEmit s)).emittingWorker = none := by
  refine emittingWorker_eq_none fun m _ hm => ?_
  rcases h.emit_of_workersStep rfl rfl hm with ⟨-, hack, -⟩ | ⟨-, hgrant, -⟩
  · cases hack
  · cases hgrant

/-- An acknowledged emit is followed by a cycle with none in flight (R304). -/
theorem Invariant.not_emitting_of_ack (h : Invariant s) (he : s.emitting = true) (hp : p.err = false)
    (ha : p.ack = true) : (engineStep s.fsm p s).emitting = false := by
  rcases emitting_cases he with hf | hf | hf | ⟨hf, e, hw⟩ <;> rw [hf, engineStep]
  · rw [emitStep_of_ack hp ha]
    rfl
  · rw [finalStep_of_ack hp ha]
    rfl
  · rw [patchStep_of_ack hp ha]
    rfl
  · rw [runbStep_of_ack hw hp ha, emitting_of_runb (by simpa using hf), h.emittingWorker_of_ack]
    rfl

/-- The edge of a cycle with an emit in flight: the transaction leaves the emit and the motors alone, because it runs
no command (R221), and the engine step follows. -/
theorem step_of_emitting {t : State} (ht : step s = .next t) (hr : s.pin.rst = false) (he : s.emitting = true) :
    ∃ s1, hostTransaction s = .next s1 ∧ s1.emitting = true ∧ s1.emitData = s.emitData ∧ SameMotors s s1 ∧
      t = advance s (engineStep s1.fsm s.pin s1) := by
  obtain ⟨s1, h1⟩ := hostTransaction_next s
  obtain ⟨hslots, hdata, -, hfsm⟩ := hostTransaction_of_emitting h1 he
  have hcfg := (hostTransaction_frame h1).1
  refine ⟨s1, h1, (emitting_congr hfsm hcfg fun m => by rw [slot_congr hslots]).trans he, hdata,
    sameMotors_of_slots hcfg hslots, ?_⟩
  rw [hfsm]
  exact Host.Outcome.next.inj (ht.symm.trans (step_eq hr h1))

end Emitting

/-- Settles O46: the engine step on the state the transaction leaves, by the answer of the emit. -/
theorem emitsHoldStillAndAreSeparated : Obligations.EmitsHoldStillAndAreSeparated := by
  intro s t h ht hr he
  obtain ⟨s1, h1, he1, hdata, -, rfl⟩ := step_of_emitting ht hr he
  have hadvance (u : State) : (advance s u).emitting = u.emitting := emitting_congr rfl rfl fun _ => rfl
  rw [advance_emitData, hadvance]
  refine ⟨(engineStep_emitData_of_emitting he1).trans hdata, fun hack herr => emitting_of_silent he1 herr hack,
    fun hanswer => ?_⟩
  cases herr : s.pin.err
  case true => rw [State.emitting, (engineStep_of_failed he1 herr).1]
  case false =>
    exact (h.after_hostTransaction h1).not_emitting_of_ack he1 herr (hanswer.resolve_right (by simp [herr]))

/-- Settles O47: the failure's own effects (`engineStep_of_failed`), and outside RUNB the invariant of the next state
leaves no worker active. -/
theorem failedEmitAbortsItsOwner : Obligations.FailedEmitAbortsItsOwner := by
  intro s t h ht hr he herr
  have hout : t.out = s.out := (step_out_eq ht hr).trans (if_neg (by simp [herr]))
  have hnext := h.after_step ht
  obtain ⟨s1, -, he1, -, same, rfl⟩ := step_of_emitting ht hr he
  obtain ⟨hidle, hlatch, kept⟩ := engineStep_of_failed he1 herr
  refine ⟨hidle, engineStep_ioErr he1 herr, hout, hlatch, fun m => ⟨?_, ?_, hnext.workersRest ?_ m⟩⟩
  · exact (same.trans kept).pos m
  · exact (same.trans kept).tgt m
  · rw [advance_fsm, hidle]
    decide

end Sys2Proof.Machine

/-! PROOFS. Which error a command records (spec/60_exceptions.md R262 to R265): its meaning follows the table of checks.
The interrupt output (R268). -/

namespace Sys2Proof.Machine

open Sys2Proof.Claims

/-! ## The checks of the model are those of the table (R265) -/

theorem not_isSlot (s : State) (m : SlotIx) : (!s.isSlot m) = decide (s.cfg.nMotors ≤ m.val) := by
  rw [Bool.eq_iff_iff, Bool.not_eq_true', isSlot_eq_false_iff, decide_eq_true_iff]

/-- The exponent of an operand in ARG lies in ARG_HI alone (R41, R117). -/
theorem f64Exponent_append (hi lo : Word) : f64Exponent (hi ++ lo) = bits hi 30 20 := by
  rw [f64Exponent_eq, BitVec.toNat_append, ← Nat.shiftLeft_add_eq_or_of_lt lo.isLt, Nat.shiftLeft_eq, bits]
  omega

theorem not_f64IsFinite_append (hi lo : Word) : (!f64IsFinite (hi ++ lo)) = decide (bits hi 30 20 = 0x7FF) := by
  rw [f64IsFinite, bne, Bool.not_not, f64Exponent_append, beq_eq_decide]

theorem outOfPosRange_iff (n : ℤ) : outOfPosRange n = true ↔ n < -2 ^ 63 ∨ 2 ^ 63 - 1 < n := decide_eq_true_iff

theorem offsetTaken_iff (s : State) (m : SlotIx) (off : Nat) : s.offsetTaken m off = true ↔
    ∃ j : SlotIx, j ≠ m ∧ j.val < s.cfg.nMotors ∧ (s.slot j).reg = true ∧ (s.slot j).bitOffset.toNat = off := by
  simp [State.offsetTaken, mem_allSlots, State.registered, isSlot_iff, and_assoc]

theorem checkConfigure_eq_firstFailing (s : State) (m : SlotIx) (off : Nat) (dinv half : Bool) :
    s.checkConfigure m off s.argLo s.argHi = firstFailing (checks s (.configure m off dinv half)) := by
  simp only [State.checkConfigure, checks, firstFailing, not_isSlot, offsetTaken_iff, decide_eq_true_eq]

/-! ## What a command answers (R263 to R265) -/

/-- From s to t no error is recorded. -/
def SameErrors (s t : State) : Prop :=
  t.cfgErr = s.cfgErr ∧ t.ioErr = s.ioErr ∧ t.errCode = s.errCode ∧ t.errMotor = s.errMotor

theorem sameErrors_setSlot (s : State) (m : SlotIx) (x : Slot) : SameErrors s (s.setSlot m x) := ⟨rfl, rfl, rfl, rfl⟩

/-- The state after a command with MOTOR field m, by its first failing check: the error recorded in s, or the
command's own effect t. -/
def checked (m : SlotIx) (s t : State) : Option ErrCode → State
  | some code => withError code m s
  | none => t

theorem checked_nil (m : SlotIx) (s t : State) : checked m s t (firstFailing []) = t := rfl

/-- The checks are asked one after another. -/
theorem next_checked_cons (m : SlotIx) (s t : State) (fails : Bool) (code : ErrCode) (rest : List (Bool × ErrCode)) :
    (.next (checked m s t (firstFailing ((fails, code) :: rest))) : Host.Outcome State Fault Refusal) =
      if fails then .next (raiseConfigurationError code m s) else .next (checked m s t (firstFailing rest)) := by
  cases fails <;> rfl

/-- A command that is not a suppressed RUN answers by its first failing check, and its own effect records no error. -/
theorem exec_eq_checked {s : State} {i : Instr} (h : runSuppressed s i = false) : ∃ t, SameErrors s t ∧
    exec i s = .next (checked (Claims.motorField i) s t (firstFailing (checks s i))) := by
  cases i with
  | nop => exact ⟨s, ⟨rfl, rfl, rfl, rfl⟩, rfl⟩
  | configure m off dinv half =>
    refine ⟨_, sameErrors_setSlot s m { s.slot m with
      bitOffset := BitVec.ofNat 8 off, dirInv := dinv, half := half, spr := s.argLo, delay := s.argHi, pos := 0,
      tgt := 0, reg := true }, ?_⟩
    rw [exec, execConfigure, ← checkConfigure_eq_firstFailing, State.sprOperand, State.delayOperand]
    cases s.checkConfigure m off s.argLo s.argHi <;> rfl
  | release m =>
    refine ⟨_, sameErrors_setSlot s m { s.slot m with reg := false }, ?_⟩
    simp only [exec, execRelease, checks, Claims.motorField, not_isSlot, next_checked_cons, checked_nil]
  | zero m =>
    refine ⟨_, sameErrors_setSlot s m { s.slot m with pos := 0, tgt := 0 }, ?_⟩
    simp only [exec, execZero, checks, Claims.motorField, not_isSlot, next_checked_cons, checked_nil]
  | setTarget m =>
    refine ⟨_, sameErrors_setSlot s m { s.slot m with tgt := BitVec.ofInt 64 (s.newTarget m) }, ?_⟩
    simp only [exec, execSetTarget, checks, Claims.motorField, not_isSlot, State.arg, not_f64IsFinite_append,
      outOfPosRange_iff, State.newTarget, next_checked_cons, checked_nil, decide_eq_true_eq]
  | run m =>
    have hflags : (s.cfgErr || s.ioErr) = false := h
    cases hmode : s.mode
    case a =>
      refine ⟨{ s with runMode := .a, done := false, fsm := .eval }, ⟨rfl, rfl, rfl, rfl⟩, ?_⟩
      simp only [exec, execRun, checks, Claims.motorField, next_checked_cons, checked_nil, hflags, hmode,
        Bool.false_eq_true, if_false]
    case b =>
      refine ⟨restWorkers { s with runMode := .b, done := false, fsm := .runb, rr := 0 }, ⟨rfl, rfl, rfl, rfl⟩, ?_⟩
      simp only [exec, execRun, checks, Claims.motorField, next_checked_cons, checked_nil, hflags, hmode,
        Bool.false_eq_true, if_false]
  | wrnib m =>
    refine ⟨{ startEmit (s.patch m (s.posOf m)) m s with fsm := .patch }, ⟨rfl, rfl, rfl, rfl⟩, ?_⟩
    simp only [exec, execWrnib, checks, Claims.motorField, not_isSlot, next_checked_cons, checked_nil]

theorem exec_of_runSuppressed {s : State} {i : Instr} (h : runSuppressed s i = true) : exec i s = .next s := by
  cases i with
  | run m => exact if_pos h
  | _ => cases h

/-- Settles O19: the answer of a command by its first failing check (`exec_eq_checked`), the RUN that is suppressed and
the reserved opcodes. -/
theorem refusedCommandsRecordTheFirstFailingCheck : Obligations.RefusedCommandsRecordTheFirstFailingCheck := by
  intro s _
  refine ⟨fun i => exec_of_runSuppressed, fun i code h hfail => ?refused, fun i h hpass => ?passed,
    fun w hop => runCommand_of_reserved hop s⟩
  case refused =>
    obtain ⟨t, -, ht⟩ := exec_eq_checked h
    rw [ht, hfail, checked]
  case passed =>
    obtain ⟨t, herr, ht⟩ := exec_eq_checked h
    exact ⟨t, by rw [ht, hpass, checked], herr⟩

/-! ## The interrupt output (R268) -/

/-- Settles O52: `irq` is the same formula over Booleans. -/
theorem interruptIsTheLevelOfItsSources : Obligations.InterruptIsTheLevelOfItsSources := by
  intro s
  simp only [State.irq, Bool.or_eq_true, Bool.and_eq_true]

end Sys2Proof.Machine
